-- ==== Sys2Proof/Word.lean ====
section
/-! DEFINITION. The word types of the block (spec rules R12 to R14): bytes, 32-bit words (`u32`), 64-bit words (`u64`),
byte buffers of whole words, and the 16-word array the two ciphers work on. -/

namespace Sys2Proof

/-- One byte (R12). -/
abbrev Byte := BitVec 8

/-- A `u32` (R13): every state word, every register word of the host window. -/
abbrev Word := BitVec 32

/-- A `u64` (R13): PROG_INDEX, KDF_ROUNDS and the round index I as numbers. -/
abbrev DWord := BitVec 64

/-- A byte buffer of `n` 32-bit words, byte 0 first (R12, R14): `4 * n` bytes. -/
abbrev WordBytes (n : Nat) := Vector Byte (4 * n)

/-- The 16-word array of Salsa20 and ChaCha20 (R6: "state 16 words of 32 bits"). -/
abbrev Words16 := Vector Word 16

end Sys2Proof
end

