-- ==== Sys2Proof/Machine/Bytes.lean ====
section
/-! DEFINITION. Byte order and the word operations of R13 and R14: `LE32`, `LE32bytes`, `LE64`, `rotl32`. -/

namespace Sys2Proof

/-- Byte `t` of a word: `v[8t+7:8t]` (R14, R63). -/
def byteOf (v : Word) (t : Nat) : Byte := v.extractLsb' (8 * t) 8

/-- Four bytes as a word, `b0` its least significant byte (R14). -/
def wordOf (b0 b1 b2 b3 : Byte) : Word := b3 ++ b2 ++ b1 ++ b0

/-- `LE32(B, j)` (R14): word `j` of a buffer read little-endian. -/
def le32 {n : Nat} (b : WordBytes n) (j : Fin n) : Word :=
  wordOf b[4 * j.val] b[4 * j.val + 1] b[4 * j.val + 2] b[4 * j.val + 3]

/-- `LE64(B)` (R14) of an 8-byte buffer: word 0 is the low half. -/
def le64 (b : WordBytes 2) : DWord :=
  (le32 b 0).setWidth 64 ||| ((le32 b 1).setWidth 64 <<< 32)

/-- `LE32bytes(Z[0]) || LE32bytes(Z[1]) || …` (R14, R109, R138): the words of an array as bytes. -/
def le32Bytes {n : Nat} (z : Vector Word n) : WordBytes n :=
  Vector.ofFn fun k : Fin (4 * n) => byteOf z[k.val / 4] (k.val % 4)

/-- A buffer with word `j` replaced by `LE32bytes(v)` (R203); every other byte stays. -/
def putWord {n : Nat} (b : WordBytes n) (j : Fin n) (v : Word) : WordBytes n :=
  Vector.ofFn fun k : Fin (4 * n) => if k.val / 4 = j.val then byteOf v (k.val % 4) else b[k.val]

/-- `rotl32(v, n)` for `0 < n < 32` (R13). -/
def rotl32 (v : Word) (n : Nat) : Word := (v <<< n) ||| (v >>> (32 - n))

/-- One flag as a word, `zext` of one bit (R30). -/
def flagWord (b : Bool) : Word := (BitVec.ofBool b).setWidth 32

end Sys2Proof
end

