-- ==== Sys2Proof/Syntax.lean ====
section
/-! DEFINITION. The commands of the block (R2, R82), one constructor per row of spec/opcode_table.json, and the two fields
of a command word (R81). No command has an operand field (R81, R84), so no constructor takes an argument. -/

namespace Sys2Proof

/-- The three commands of R82. -/
inductive Instr where
  /-- SALSA20_BLOCK: one 64-byte Salsa20/20 keystream block (R110). -/
  | salsa20Block
  /-- CHACHA20_BLOCK: one 64-byte ChaCha20 (IETF) keystream block (R139). -/
  | chacha20Block
  /-- AESKDF_TRANSFORM: the iterated AES-256 key-derivation loop (R172). -/
  | aeskdfTransform
  deriving DecidableEq, Repr

/-- The fields of a command word (R81). -/
structure CommandFields where
  /-- OP, bits 7:0: the operation selector. -/
  op : BitVec 8
  /-- RSVD, bits 31:8: reserved, must be 0. -/
  rsvd : BitVec 24
  deriving DecidableEq, Repr

end Sys2Proof
end

