-- ==== Sys2Proof/WellFormed.lean ====
section
/-! DEFINITION. Which command words are legal (R81 to R83), as two separate checks on the word's fields. -/

namespace Sys2Proof

/-- R81: RSVD must be 0. -/
def CommandFields.reservedClear (f : CommandFields) : Bool := f.rsvd == 0

/-- R82: OP names an operation. -/
def CommandFields.opAssigned (f : CommandFields) : Bool := f.op == 1 || f.op == 2 || f.op == 3

/-- R82, R83: the fields of a legal command word. -/
def CommandFields.wellFormed (f : CommandFields) : Bool := f.reservedClear && f.opAssigned

/-- A command carries no field of its own (R81: "no register field, immediate, mode bit or option field"), so every
term of `Instr` is well formed. -/
def Instr.wellFormed (_ : Instr) : Bool := true

end Sys2Proof
end

