-- ==== Sys2Proof/Decode.lean ====
section
/-! DEFINITION. Decoding of command words (R80 to R83, R87), total on every word and on every list of bytes, refusing
each illegal word by name; and the encoder, from the same table R82. -/

namespace Sys2Proof

/-- Why a word is no command (R83), or why bytes hold no command word. -/
inductive DecodeError where
  /-- Some bit of 31:8 is set (R81, R83). -/
  | reservedBits
  /-- OP = 0x00 (R83). -/
  | opZero
  /-- OP in 0x04..0xFF (R83). -/
  | opUnassigned (op : BitVec 8)
  /-- Fewer than the four bytes of a command word (R80: "There is no other length"). -/
  | truncated
  deriving DecidableEq, Repr

/-- The fields of a word (R81). -/
def fieldsOf (w : Word) : CommandFields :=
  { op := w.extractLsb' 0 8, rsvd := w.extractLsb' 8 24 }

/-- The word with the given fields (R81). -/
def wordOfFields (f : CommandFields) : Word := f.rsvd ++ f.op

/-- Command decode (R82, R83). -/
def decode (w : Word) : Except DecodeError Instr :=
  let f := fieldsOf w
  if f.rsvd ≠ 0 then .error .reservedBits
  else if f.op = 0x01 then .ok .salsa20Block
  else if f.op = 0x02 then .ok .chacha20Block
  else if f.op = 0x03 then .ok .aeskdfTransform
  else if f.op = 0x00 then .error .opZero
  else .error (.opUnassigned f.op)

/-- Decode the command word at the front of a list of bytes, lowest address first, little-endian lanes (R63). -/
def decodeBytes : List Byte → Except DecodeError (Instr × List Byte)
  | b0 :: b1 :: b2 :: b3 :: rest =>
    match decode (wordOf b0 b1 b2 b3) with
    | .ok i => .ok (i, rest)
    | .error e => .error e
  | _ => .error .truncated

/-- The fields of a command's word (R82). -/
def fieldsOfInstr : Instr → CommandFields
  | .salsa20Block => { op := 0x01, rsvd := 0 }
  | .chacha20Block => { op := 0x02, rsvd := 0 }
  | .aeskdfTransform => { op := 0x03, rsvd := 0 }

/-- The command word of an instruction (R82). -/
def encode (i : Instr) : Word := wordOfFields (fieldsOfInstr i)

/-- The four bytes of a word on the host bus, `off + t` holding `v[8t+7:8t]` (R63). -/
def wordBytesList (w : Word) : List Byte := [byteOf w 0, byteOf w 1, byteOf w 2, byteOf w 3]

/-- The bytes of an instruction's command word. -/
def encodeBytes (i : Instr) : List Byte := wordBytesList (encode i)

/-- The 32-bit command word of a table row whose low `nbits` bits are `w`: every bit above `nbits` is 0 (R80). -/
def tableWord (nbits w : Nat) : Word := BitVec.ofNat 32 (w % 2 ^ nbits)

/-- What the decoder reads from a row of spec/opcode_table.json laid out as the bus lays it out (R63). -/
def decodeTableWord (nbits w : Nat) : Option Instr :=
  match decodeBytes (wordBytesList (tableWord nbits w)) with
  | .ok (i, _) => some i
  | .error _ => none

/-- R82: the word 0x00000001. -/
theorem decode_salsa20Block : decode 0x00000001 = .ok .salsa20Block := by decide

/-- R82: the word 0x00000002. -/
theorem decode_chacha20Block : decode 0x00000002 = .ok .chacha20Block := by decide

/-- R82: the word 0x00000003. -/
theorem decode_aeskdfTransform : decode 0x00000003 = .ok .aeskdfTransform := by decide

end Sys2Proof
end

