-- ==== Sys2Proof/Config.lean ====
section
/-! DEFINITION. What the spec fixes (R7) and what it leaves to the implementation: the parameters of R9 as constants
without a body, and the free values of the model. -/

namespace Sys2Proof

/-- PROGRESS_INTERVAL (R7), fixed by the spec. -/
def Config.progressInterval : Nat := 100000

/-- The number of double-rounds of both ciphers (R8: 20 rounds, "10 double-rounds"). -/
def Config.doubleRounds : Nat := 10

/-- `AES256_ENC` (R9, R10): the external AES engine's single-block encryption, a total function of a 32-byte key and a
16-byte block. No body: no rule depends on any property of it (log entry 5). -/
opaque Config.aes256Enc : WordBytes 8 → WordBytes 4 → WordBytes 4

/-- `AES_ENGINE_CAN_FAIL` (R9, R11), a parameter: no body (log entry 6). -/
opaque Config.aesEngineCanFail : Bool

/-- The answers of the failure draws (`draw_ok()`, R11) that State's list of draws does not fix: free values, one per
value of State's counter `fresh` (log entry 6). -/
opaque Config.freeDraw : Nat → Bool

/-- KDF_KEY's contents after an engine error (R171: "undefined/unusable"): a free value per value of State's counter
`fresh` (log entry 7). -/
opaque Config.freeKey : Nat → WordBytes 8

end Sys2Proof
end

