-- ==== Sys2Proof/Machine/Window.lean ====
section
/-! DEFINITION. The host register window (R54, R69, R70): which register word stands at which offset, the access rules
of each register, and a host access (R88, R200). -/

namespace Sys2Proof.Machine

/-- The buffer registers (R36, R38 to R47): those whose words carry a `written` bit (R37). -/
inductive BufName where
  | kdfRounds | kdfSeed | kdfKey | sKey | sIv | sCtr | sConst | cKey | cNonce | cCtr | out
  deriving DecidableEq, Repr

/-- All of them, in the order of the map R54. -/
def BufName.all : List BufName :=
  [.kdfRounds, .kdfSeed, .kdfKey, .sKey, .sIv, .sCtr, .sConst, .cKey, .cNonce, .cCtr, .out]

/-- The number of words of a buffer register (R54). -/
abbrev BufName.words : BufName → Nat
  | .kdfRounds => 2
  | .kdfSeed => 8
  | .kdfKey => 8
  | .sKey => 8
  | .sIv => 2
  | .sCtr => 2
  | .sConst => 4
  | .cKey => 8
  | .cNonce => 3
  | .cCtr => 1
  | .out => 16

/-- The offset of a buffer register's word 0 (R54). -/
def BufName.base : BufName → Nat
  | .kdfRounds => 0x018
  | .kdfSeed => 0x040
  | .kdfKey => 0x060
  | .sKey => 0x080
  | .sIv => 0x0A0
  | .sCtr => 0x0A8
  | .sConst => 0x0B0
  | .cKey => 0x0C0
  | .cNonce => 0x0E0
  | .cCtr => 0x0EC
  | .out => 0x100

/-- One word of the window (R54). -/
inductive Slot where
  | cmd
  | status
  | progResp
  | kdfCtrl
  | progIndexLo
  | progIndexHi
  | buf (b : BufName) (j : Fin b.words)
  deriving DecidableEq, Repr

/-- The word of buffer `b` that holds offset `off`, if `off` lies in it (R54). -/
def slotInBuf (off : Nat) (b : BufName) : Option Slot :=
  if h : b.base ≤ off ∧ off < b.base + 4 * b.words then
    some (.buf b ⟨(off - b.base) / 4, by omega⟩)
  else none

/-- The register word at an offset of the window; `none` for an unmapped offset (R54, R70). -/
def slotAt (off : Nat) : Option Slot :=
  if off < 0x004 then some .cmd
  else if off < 0x008 then some .status
  else if off < 0x00C then some .progResp
  else if off < 0x010 then some .kdfCtrl
  else if off < 0x014 then some .progIndexLo
  else if off < 0x018 then some .progIndexHi
  else BufName.all.findSome? (slotInBuf off)

/-- The offset of a register word (R54). -/
def Slot.offset : Slot → Nat
  | .cmd => 0x000
  | .status => 0x004
  | .progResp => 0x008
  | .kdfCtrl => 0x00C
  | .progIndexLo => 0x010
  | .progIndexHi => 0x014
  | .buf b j => b.base + 4 * j.val

/-- Write-only registers (R31, R34). -/
def Slot.writeOnly : Slot → Bool
  | .cmd => true
  | .progResp => true
  | .status => false
  | .kdfCtrl => false
  | .progIndexLo => false
  | .progIndexHi => false
  | .buf _ _ => false

/-- Read-only registers (R32, R35, R47). -/
def Slot.readOnly : Slot → Bool
  | .status => true
  | .progIndexLo => true
  | .progIndexHi => true
  | .buf b _ => b = .out
  | .cmd => false
  | .progResp => false
  | .kdfCtrl => false

/-- One host access (R200): its width in bits, its offset, and for a write its data. With the direction these are the
bus triples of R88. -/
inductive Access where
  /-- `HostRead(off)`, the triple `(R, off, -)`. -/
  | read (width : Nat) (off : Word)
  /-- `HostWrite(off, v)`, the triple `(W, off, v)`. -/
  | write (width : Nat) (off : Word) (v : Word)
  deriving DecidableEq, Repr

/-- The width of an access in bits (R200). -/
def Access.width : Access → Nat
  | .read w _ => w
  | .write w _ _ => w

/-- The offset of an access (R200). -/
def Access.off : Access → Word
  | .read _ off => off
  | .write _ off _ => off

/-- Whether an access is a read. -/
def Access.isRead : Access → Bool
  | .read _ _ => true
  | .write _ _ _ => false

/-- R201, check 4: the accesses allowed while BUSY. -/
def Access.allowedWhileBusy (isRead : Bool) : Slot → Bool
  | .status => isRead
  | .progIndexLo => isRead
  | .progIndexHi => isRead
  | .progResp => !isRead
  | .cmd => false
  | .kdfCtrl => false
  | .buf _ _ => false

end Sys2Proof.Machine
end

