-- ==== Sys2Proof/Machine/HostSyntax.lean ====
section
/-! DEFINITION. The notation of host programs (R88 to R90): lines that reach the block, host-local lines, and the
expansions of the pseudo-instructions. The operators of host expressions are the model's (log entry 14). -/

namespace Sys2Proof.Machine

/-- A host variable, a number standing for its name and an index (`t_j` of R90). DESIGN CHOICE, log entry 24: the index is
a number, so a destination whose index is the value of a variable (`rdbuf b[c]` of program P2 of spec/95_test_vectors.md,
which R88 to R90 do not define) is not a line of the model. -/
structure HostVar where
  name : Nat
  index : Nat
  deriving DecidableEq, Repr

/-- Host arithmetic (R89: "`u32` or `u64` wrapping"). -/
inductive HostOp where
  | add | sub | mul | and | or | xor
  deriving DecidableEq, Repr

/-- A host expression (R89). -/
inductive HostExpr where
  | const (v : DWord)
  | var (t : HostVar)
  /-- `t[k]`, bit `k` of a host variable (R89). -/
  | bit (t : HostVar) (k : Nat)
  /-- `u32` arithmetic. -/
  | op32 (o : HostOp) (a b : HostExpr)
  /-- `u64` arithmetic. -/
  | op64 (o : HostOp) (a b : HostExpr)
  deriving DecidableEq, Repr

/-- A host condition (R89; the forms of R90 and of spec/95_test_vectors.md). -/
inductive HostCond where
  | eq (a b : HostExpr)
  | ne (a b : HostExpr)
  | both (c d : HostCond)
  deriving DecidableEq, Repr

/-- `VAL` of a `wr` line (R88): a number, or a host variable whose current `u32` value is the data. -/
inductive HostVal where
  | const (v : Word)
  | var (t : HostVar)
  deriving DecidableEq, Repr

/-- One line of a host program (R88, R89). Labels are numbers. -/
inductive Line where
  /-- `wr OFF, VAL`. -/
  | wr (off : Word) (val : HostVal)
  /-- `rd t, OFF`. -/
  | rd (t : HostVar) (off : Word)
  /-- `L:`. -/
  | label (l : Nat)
  /-- `t <- expr`. -/
  | assign (t : HostVar) (e : HostExpr)
  /-- `if cond goto L`. -/
  | ifGoto (c : HostCond) (l : Nat)
  /-- `goto L`. -/
  | goto (l : Nat)
  /-- `halt`. -/
  | halt
  deriving DecidableEq, Repr

/-- `wrbuf OFF, h` (R90): one `wr` per word of the hex string, byte 0 first. Offsets wrap at 32 bits (log entry 20). -/
def wrbuf (off : Word) : List Byte → List Line
  | b0 :: b1 :: b2 :: b3 :: rest => .wr off (.const (wordOf b0 b1 b2 b3)) :: wrbuf (off + 4) rest
  | _ => []

/-- `rdbuf t, OFF, n` (R90), from index `j` on: `rd t_j, OFF+4j`. Offsets wrap at 32 bits (log entry 20). -/
def rdbufFrom (t : Nat) (off : Word) (j : Nat) : Nat → List Line
  | 0 => []
  | n + 1 => .rd { name := t, index := j } off :: rdbufFrom t (off + 4) (j + 1) n

/-- `rdbuf t, OFF, n` (R90). -/
def rdbuf (t : Nat) (off : Word) (n : Nat) : List Line := rdbufFrom t off 0 n

/-- `wr64 OFF, v` (R90). DESIGN CHOICE, log entry 23: `v` is a number, not a `u64` host variable. -/
def wr64 (off : Word) (v : DWord) : List Line :=
  [.wr off (.const (v.extractLsb' 0 32)), .wr (off + 4) (.const (v.extractLsb' 32 32))]

/-- `salsa20` (R90). -/
def salsa20Line : Line := .wr 0x000 (.const 0x00000001)

/-- `chacha20` (R90). -/
def chacha20Line : Line := .wr 0x000 (.const 0x00000002)

/-- `aeskdf` (R90). -/
def aeskdfLine : Line := .wr 0x000 (.const 0x00000003)

/-- `continue` (R90). -/
def continueLine : Line := .wr 0x008 (.const 0x00000000)

/-- `stop` (R90). -/
def stopLine : Line := .wr 0x008 (.const 0x00000001)

/-- `waitidle t` (R90), with the fresh label `l`. -/
def waitidle (t : HostVar) (l : Nat) : List Line :=
  [.label l, .rd t 0x004, .ifGoto (.eq (.bit t 0) (.const 1)) l]

/-- `waitevent t` (R90), with the fresh label `l`. -/
def waitevent (t : HostVar) (l : Nat) : List Line :=
  [.label l, .rd t 0x004, .ifGoto (.both (.eq (.bit t 0) (.const 1)) (.eq (.bit t 1) (.const 0))) l]

end Sys2Proof.Machine
end

