-- ==== Sys2Proof/Machine/State.lean ====
section
/-! DEFINITION. The state of the block (spec file 10_state.md) and of the agents around it as plain data, the reasons a
step can stop, and the state at power-on (R271). -/

namespace Sys2Proof.Machine

/-- PHASE (R23). -/
inductive Phase where
  /-- No operation in progress. -/
  | idle
  /-- SALSA20_BLOCK accepted, result not yet written. -/
  | salsaRun
  /-- CHACHA20_BLOCK accepted, result not yet written. -/
  | chachaRun
  /-- AESKDF_TRANSFORM accepted, AES engine not yet constructed. -/
  | kdfInit
  /-- About to consider round I. -/
  | kdfCheck
  /-- Progress request for round I outstanding. -/
  | kdfWait
  /-- Round I to be applied. -/
  | kdfRound
  deriving DecidableEq, Repr

/-- STATUS.RESULT (R27, R231). Code 3 is reserved and never produced, so it has no constructor (log entry 19). -/
inductive Result where
  | ok
  | engineInitFailed
  | engineStepFailed
  deriving DecidableEq, Repr

/-- The host fault codes (R235). -/
inductive HostFault where
  /-- Access to an unmapped offset. -/
  | hf1
  /-- Access not 32 bits wide or not 4-aligned. -/
  | hf2
  /-- Read of a write-only register. -/
  | hf3
  /-- Write of a read-only register. -/
  | hf4
  /-- Access while BUSY that is not allowed then. -/
  | hf5
  /-- Read of a word that has not been written. -/
  | hf6
  /-- A legal command issued with an operand word unwritten. -/
  | hf7
  /-- PROG_RESP written with no progress request outstanding. -/
  | hf8
  /-- KDF_CTRL written with a reserved bit set. -/
  | hf9
  deriving DecidableEq, Repr

/-- A buffer register of `n` words: its bytes, and the hidden `written` bit of each word (R37). -/
structure Buf (n : Nat) where
  bytes : WordBytes n
  written : Vector Bool n
  deriving DecidableEq, Repr

/-- A buffer as reset leaves it: every `written` bit clear (R37, R271). The bytes are unspecified and no rule reads
them: 0 is the value the model names (DESIGN CHOICE, log entry 8). -/
def Buf.unwritten (n : Nat) : Buf n :=
  { bytes := Vector.replicate (4 * n) 0, written := Vector.replicate n false }

/-- Who takes the next step (R20, R72, R270). DESIGN CHOICE, log entry 1. -/
inductive Turn where
  /-- The ENGINE takes a step, if it is enabled. -/
  | engine
  /-- The HOST makes this access (R200). -/
  | access (a : Access)
  /-- The HOST takes the next line of its program (R88, R89). -/
  | program
  /-- The reset event (R270). -/
  | reset
  deriving DecidableEq, Repr

/-- The host agent's own state when it runs a host program (R88 to R90, R209). -/
structure HostState where
  program : List Line
  /-- The index of the next line. -/
  line : Nat
  /-- The variables assigned so far, one entry each. -/
  vars : List (HostVar × DWord)
  /-- Whether `halt` has been executed (R209). -/
  halted : Bool
  deriving DecidableEq, Repr

/-- The state: every piece 10_state.md names, then the host agent, then the model's own fields. -/
structure State where
  /-- PHASE (R23); STATUS.BUSY and STATUS.PROG_REQ are computed from it (R25, R26). -/
  phase : Phase
  /-- I (R24); what it holds outside the loop is the model's (log entries 8, 26). -/
  roundIndex : DWord
  /-- STATUS.RESULT (R27). -/
  result : Result
  /-- STATUS.CMD_ERR (R28). -/
  cmdErr : Bool
  /-- KDF_CTRL.PROGRESS_EN (R33). -/
  progressEn : Bool
  /-- PROG_INDEX (R35). -/
  progIndex : DWord
  /-- KDF_ROUNDS (R36). -/
  kdfRounds : Buf 2
  /-- KDF_SEED (R45). -/
  kdfSeed : Buf 8
  /-- KDF_KEY (R46). -/
  kdfKey : Buf 8
  /-- S_KEY (R38). -/
  sKey : Buf 8
  /-- S_IV (R39). -/
  sIv : Buf 2
  /-- S_CTR (R40). -/
  sCtr : Buf 2
  /-- S_CONST (R41). -/
  sConst : Buf 4
  /-- C_KEY (R42). -/
  cKey : Buf 8
  /-- C_NONCE (R43). -/
  cNonce : Buf 3
  /-- C_CTR (R44). -/
  cCtr : Buf 1
  /-- OUT (R47). -/
  out : Buf 16
  /-- X, the initial state of the block operation (R49, hidden; log entry 10). -/
  stateX : Words16
  /-- W, the working state of the block operation (R49, hidden; log entry 10). -/
  stateW : Words16
  /-- The AES context (R50, hidden): none, or the seed the engine was built with. -/
  aesContext : Option (WordBytes 8)
  /-- FAULTED (R51, model-only in the spec): clear, or set with a code. -/
  faulted : Option HostFault
  /-- The host agent's program, position and variables (R88 to R90, R209). -/
  host : HostState
  /-- Model's own: the word the last admitted host read returned (R202; log entry 12). -/
  readData : Word
  /-- Model's own: the turns to come, the next one first (log entry 1). -/
  turns : List Turn
  /-- Model's own: the answers of the coming failure draws that are fixed from outside, `true` for ok (R11; log entry 6). -/
  draws : List Bool
  /-- Model's own: how many free values have been taken (log entries 6, 7). -/
  fresh : Nat
  deriving DecidableEq, Repr

/-- Why a step of the machine stops. A host fault is NOT such a stop: it is recorded in FAULTED (R236). -/
inductive Fault where
  /-- Raised by a HOST turn (an access, or a `wr` or `rd` line) in a state where FAULTED is set with this code: a HOST
  step is not enabled there (R200) and what the hardware does is the open parameter HOST_FAULT_RESPONSE (R236).
  Safe: the model stops where hardware may go on. -/
  | hostFault (code : HostFault)
  /-- Raised by the step when PHASE is KDF_WAIT and no turn is left: the host never answers, "a hang, not an end of
  run" (R280). Safe: the hardware takes no step either. -/
  | hang
  /-- Raised by a program turn whose line the notation gives no meaning: past the last line, a `goto` to a label that
  is not there, or a variable that was never assigned (log entry 14). Safe: the model stops. -/
  | hostProgramStuck
  deriving DecidableEq, Repr

/-- Why a step has no meaning in the model. -/
inductive Refusal where
  /-- An instruction that has no meaning yet. Safe. No arm of `exec` raises it. -/
  | notModelled (mnemonic : String)
  deriving DecidableEq, Repr

/-- A host that runs no program: nothing placed, nothing executed (log entry 22). -/
def HostState.empty : HostState := { program := [], line := 0, vars := [], halted := false }

/-- The machine at power-on: the reset state of R271, FAULTED clear. I, X, W and the bytes of unwritten words are
unspecified there; the values below are the model's (log entry 8), as are those of its own fields (log entry 22). -/
def State.reset : State where
  phase := .idle
  roundIndex := 0
  result := .ok
  cmdErr := false
  progressEn := false
  progIndex := 0
  kdfRounds := Buf.unwritten 2
  kdfSeed := Buf.unwritten 8
  kdfKey := Buf.unwritten 8
  sKey := Buf.unwritten 8
  sIv := Buf.unwritten 2
  sCtr := Buf.unwritten 2
  sConst := Buf.unwritten 4
  cKey := Buf.unwritten 8
  cNonce := Buf.unwritten 3
  cCtr := Buf.unwritten 1
  out := Buf.unwritten 16
  stateX := Vector.replicate 16 0
  stateW := Vector.replicate 16 0
  aesContext := none
  faulted := none
  host := HostState.empty
  readData := 0
  turns := []
  draws := []
  fresh := 0

/-- The three outcomes of a step of this machine. -/
abbrev StepOutcome := Host.Outcome State Fault Refusal

end Sys2Proof.Machine
end

