-- ==== Sys2Proof/Machine/Flags.lean ====
section
/-! DEFINITION. The STATUS fields and word (R25 to R30, R32) and the other control words a host reads (R33, R86). The
operations have no other flag or condition code (R29). -/

namespace Sys2Proof.Machine

/-- STATUS.BUSY (R25): `PHASE != IDLE`. -/
def Phase.busy (p : Phase) : Bool := p ≠ .idle

/-- STATUS.PROG_REQ (R26): `PHASE = KDF_WAIT`. -/
def Phase.progReq (p : Phase) : Bool := p = .kdfWait

/-- The phases of an AESKDF_TRANSFORM in progress (R23). -/
def Phase.isKdf : Phase → Bool
  | .kdfInit => true
  | .kdfCheck => true
  | .kdfWait => true
  | .kdfRound => true
  | .idle => false
  | .salsaRun => false
  | .chachaRun => false

/-- The phases in which the round index I has a meaning (R24) and the AES context exists (R50). -/
def Phase.inLoop : Phase → Bool
  | .kdfCheck => true
  | .kdfWait => true
  | .kdfRound => true
  | .kdfInit => false
  | .idle => false
  | .salsaRun => false
  | .chachaRun => false

/-- The result codes (R231), two bits of STATUS (R27). -/
def Result.code : Result → BitVec 2
  | .ok => 0
  | .engineInitFailed => 1
  | .engineStepFailed => 2

/-- The STATUS word (R30); bits 31:5 are 0 (R29). -/
def statusWord (s : State) : Word :=
  (flagWord s.cmdErr <<< 4) ||| (s.result.code.setWidth 32 <<< 2) |||
    (flagWord s.phase.progReq <<< 1) ||| flagWord s.phase.busy

/-- The KDF_CTRL word (R33, R202): `zext(PROGRESS_EN)`. -/
def kdfCtrlWord (s : State) : Word := flagWord s.progressEn

/-- R33, R86: bits 31:1 of a word written to KDF_CTRL are 0. -/
def kdfCtrlLegal (v : Word) : Bool := v.extractLsb' 1 31 == 0

/-- PROGRESS_EN of a word written to KDF_CTRL (R205): `v[0]`. -/
def progressEnOf (v : Word) : Bool := v.getLsbD 0

end Sys2Proof.Machine
end

