-- ==== Sys2Proof/Machine/Operands.lean ====
section
/-! DEFINITION. Reading and writing the buffer registers (R37 to R47, R65), which buffers a command reads (R82), whether
they are valid (R37, R204), and the operand assembly of R84. -/

namespace Sys2Proof.Machine

/-- Word `j` of a buffer, `LE32(B, j)` (R63, R202). -/
def Buf.word {n : Nat} (b : Buf n) (j : Fin n) : Word := le32 b.bytes j

/-- The `written` bit of word `j` (R37). -/
def Buf.isWritten {n : Nat} (b : Buf n) (j : Fin n) : Bool := b.written[j.val]

/-- `valid(REG.name)`: every word has its `written` bit set (R37). -/
def Buf.valid {n : Nat} (b : Buf n) : Bool := b.written.toList.all id

/-- A write of word `j` (R203): its four bytes and its `written` bit. -/
def Buf.setWord {n : Nat} (b : Buf n) (j : Fin n) (v : Word) : Buf n :=
  { bytes := putWord b.bytes j v, written := b.written.set j.val true }

/-- A buffer the engine has written whole: every `written` bit set (R37: "The engine sets the bits of the words it
writes"). -/
def Buf.ofBytes {n : Nat} (bytes : WordBytes n) : Buf n :=
  { bytes := bytes, written := Vector.replicate n true }

/-- The buffer register of a name. -/
def State.buf (s : State) : (b : BufName) → Buf b.words
  | .kdfRounds => s.kdfRounds
  | .kdfSeed => s.kdfSeed
  | .kdfKey => s.kdfKey
  | .sKey => s.sKey
  | .sIv => s.sIv
  | .sCtr => s.sCtr
  | .sConst => s.sConst
  | .cKey => s.cKey
  | .cNonce => s.cNonce
  | .cCtr => s.cCtr
  | .out => s.out

/-- The state with one buffer register replaced. -/
def State.setBuf (s : State) : (b : BufName) → Buf b.words → State
  | .kdfRounds, v => { s with kdfRounds := v }
  | .kdfSeed, v => { s with kdfSeed := v }
  | .kdfKey, v => { s with kdfKey := v }
  | .sKey, v => { s with sKey := v }
  | .sIv, v => { s with sIv := v }
  | .sCtr, v => { s with sCtr := v }
  | .sConst, v => { s with sConst := v }
  | .cKey, v => { s with cKey := v }
  | .cNonce, v => { s with cNonce := v }
  | .cCtr, v => { s with cCtr := v }
  | .out, v => { s with out := v }

/-- The operand registers of a command that carry `written` bits (R82, R204). KDF_CTRL, which AESKDF_TRANSFORM also
reads, "is always valid" (R204). -/
def operandBufs : Instr → List BufName
  | .salsa20Block => [.sKey, .sIv, .sCtr, .sConst]
  | .chacha20Block => [.cKey, .cNonce, .cCtr]
  | .aeskdfTransform => [.kdfSeed, .kdfKey, .kdfRounds]

/-- Whether every operand register of a command is valid (R204). -/
def operandsValid (i : Instr) (s : State) : Bool := (operandBufs i).all fun b => (s.buf b).valid

/-- `N = LE64(KDF_ROUNDS)`, the round count (R84, R160). -/
def roundCount (s : State) : DWord := le64 s.kdfRounds.bytes

/-- `KDF_KEY{0..15}` (R46, R84): the first AES block of a 32-byte buffer. -/
def lowHalf (k : WordBytes 8) : WordBytes 4 := Vector.ofFn fun t : Fin (4 * 4) => k[t.val]

/-- `KDF_KEY{16..31}` (R46, R84): the second AES block of a 32-byte buffer. -/
def highHalf (k : WordBytes 8) : WordBytes 4 := Vector.ofFn fun t : Fin (4 * 4) => k[16 + t.val]

/-- `a || b` of two 16-byte blocks (R13). -/
def joinHalves (a b : WordBytes 4) : WordBytes 8 :=
  Vector.ofFn fun t : Fin (4 * 8) => if h : t.val < 16 then a[t.val] else b[t.val - 16]

end Sys2Proof.Machine
end

