-- ==== Sys2Proof/Machine/Ops.lean ====
section
/-! DEFINITION. The shared operations of the block: raising a host fault (R236), accepting a command (R204), ending an
operation (R231), an engine error (R240), the failure draws (R11), the reset event (R270, R271). -/

namespace Sys2Proof.Machine

/-- `raise HostFault(code)` (R51, R236): FAULTED is set with its code and nothing else changes. The block's only way of
taking a host fault. -/
def raise (code : HostFault) (s : State) : State := { s with faulted := some code }

/-- The issue of a legal command while IDLE (R204): HF7 when an operand register is not valid, else RESULT and CMD_ERR
are cleared and PHASE becomes the operation's first phase. -/
def accept (i : Instr) (first : Phase) (s : State) : State :=
  if operandsValid i s then { s with result := .ok, cmdErr := false, phase := first }
  else raise .hf7 s

/-- `finish(result)` (R231): RESULT and PHASE in one step. -/
def finish (r : Result) (s : State) : State := { s with result := r, phase := .idle }

/-- The end of an AES-KDF operation: `finish(result)`, and the AES context is "discarded when the operation ends"
(R50). I keeps its last value, which no rule reads any more (DESIGN CHOICE, log entry 26). -/
def finishKdf (r : Result) (s : State) : State := { finish r s with aesContext := none }

/-- KDF_KEY after an engine error (R171): every `written` bit clear, the contents a free value (log entry 7). -/
def loseKdfKey (s : State) : State :=
  { s with
    kdfKey := { bytes := Config.freeKey s.fresh, written := Vector.replicate 8 false }
    fresh := s.fresh + 1 }

/-- Engine error entry (R240): KDF_KEY unwritten, RESULT the code, PHASE IDLE. -/
def engineError (r : Result) (s : State) : State := finishKdf r (loseKdfKey s)

/-- `draw_ok()` (R11, R15): the answer. The next draw fixed from outside, else a free value; always ok when the engine
cannot fail. -/
def drawAnswer (canFail : Bool) (s : State) : Bool :=
  match s.draws with
  | d :: _ => !canFail || d
  | [] => !canFail || Config.freeDraw s.fresh

/-- `draw_ok()` (R11, R15): the state after the draw, which has used one input of the step. -/
def drawTaken (s : State) : State :=
  match s.draws with
  | _ :: ds => { s with draws := ds }
  | [] => { s with fresh := s.fresh + 1 }

/-- The reset event (R270, R271): every register of the block in its reset state, FAULTED kept, the operation in
progress abandoned (R272). The host agent, the turns to come and the draws to come are not the block's (log entry 9). -/
def resetEvent (s : State) : State :=
  { State.reset with
    faulted := s.faulted
    host := s.host
    readData := s.readData
    turns := s.turns
    draws := s.draws
    fresh := s.fresh }

end Sys2Proof.Machine
end

