-- ==== Sys2Proof/Machine/AesKdf.lean ====
section
/-! DEFINITION. AESKDF_TRANSFORM (spec file 42_aeskdf.md): the round function R162, the ENGINE steps R163, R165, R169, the
two answers to a progress request R167, R168, and the command R172. The functions take the AES engine's parameters of R9
as arguments; the command gives them Config's. -/

namespace Sys2Proof.Machine

/-- `F(seed, K)` (R162) for a given AES-256 encryption: each 16-byte block of `K` encrypted under the seed. -/
def kdfF (enc : WordBytes 8 → WordBytes 4 → WordBytes 4) (seed k : WordBytes 8) : WordBytes 8 :=
  joinHalves (enc seed (lowHalf k)) (enc seed (highHalf k))

/-- `F^n(seed, K)` (R168, R175): `n` applications of R162. -/
def kdfFn (enc : WordBytes 8 → WordBytes 4 → WordBytes 4) (seed : WordBytes 8) : Nat → WordBytes 8 → WordBytes 8
  | 0, k => k
  | n + 1, k => kdfFn enc seed n (kdfF enc seed k)

/-- Engine construction (R163), the step of KDF_INIT. -/
def kdfConstruct (canFail : Bool) (s : State) : State :=
  if drawAnswer canFail s then
    { drawTaken s with aesContext := some s.kdfSeed.bytes, roundIndex := 0, phase := .kdfCheck }
  else engineError .engineInitFailed (drawTaken s)

/-- Whether round I is one at which the host is asked (R7, R165): `I mod 100000 = 0`. -/
def atCadence (i : DWord) : Bool := i.toNat % Config.progressInterval = 0

/-- Raising a progress request for round I (R166). -/
def raiseRequest (s : State) : State := { s with progIndex := s.roundIndex, phase := .kdfWait }

/-- Round check (R165), the step of KDF_CHECK: the bound first, then the progress request (R239). -/
def kdfConsider (s : State) : State :=
  if s.roundIndex = roundCount s then finishKdf .ok s
  else if s.progressEn && atCadence s.roundIndex then raiseRequest s
  else { s with phase := .kdfRound }

/-- One round (R169, R170), the step of KDF_ROUND: one draw for both halves, then `F` in place. -/
def kdfApply (enc : WordBytes 8 → WordBytes 4 → WordBytes 4) (canFail : Bool) (s : State) : State :=
  if drawAnswer canFail s then
    { drawTaken s with
      kdfKey := Buf.ofBytes (kdfF enc s.kdfSeed.bytes s.kdfKey.bytes)
      roundIndex := s.roundIndex + 1
      phase := .kdfCheck }
  else engineError .engineStepFailed (drawTaken s)

/-- A host write to PROG_RESP while a request is outstanding (R206): the value 0 continues (R167), every other value
stops the loop with RESULT OK (R168). -/
def answerRequest (v : Word) (s : State) : State :=
  if v = 0 then { s with phase := .kdfRound } else finishKdf .ok s

/-- AESKDF_TRANSFORM by PHASE, for given parameters of the AES engine: while IDLE its issue (R204), in its own phases
the ENGINE step of that phase; in KDF_WAIT "the ENGINE has no step" (R166) and nothing changes; while another operation
runs the command word raises HF5 (R172, "Exceptions"). -/
def kdfStep (enc : WordBytes 8 → WordBytes 4 → WordBytes 4) (canFail : Bool) (s : State) : State :=
  match s.phase with
  | .idle => accept .aeskdfTransform .kdfInit s
  | .kdfInit => kdfConstruct canFail s
  | .kdfCheck => kdfConsider s
  | .kdfWait => s
  | .kdfRound => kdfApply enc canFail s
  | .salsaRun => raise .hf5 s
  | .chachaRun => raise .hf5 s

/-- AESKDF_TRANSFORM (R172), with the AES engine of Config (R9). -/
def execAeskdfTransform (s : State) : StepOutcome :=
  .next (kdfStep Config.aes256Enc Config.aesEngineCanFail s)

end Sys2Proof.Machine
end

