-- ==== Sys2Proof/Machine/Arx.lean ====
section
/-! DEFINITION. What Salsa20 and ChaCha20 share (R115): a quarter-round applied to four tuples of words, ten
double-rounds, the final addition and the serialisation. Each cipher brings its own quarter-round, tuples and layout. -/

namespace Sys2Proof.Machine

/-- Four indices into the 16-word array. -/
structure Tuple where
  a : Fin 16
  b : Fin 16
  c : Fin 16
  d : Fin 16
  deriving DecidableEq, Repr

/-- A quarter-round applied to a list of tuples, in that order (R104, R105, R134, R135). -/
def applyTuples (qr : Words16 → Tuple → Words16) (w : Words16) (ts : List Tuple) : Words16 := ts.foldl qr w

/-- A round function applied `n` times (R107, R136). -/
def iterate (f : Words16 → Words16) : Nat → Words16 → Words16
  | 0, w => w
  | n + 1, w => iterate f n (f w)

/-- The final addition (R108, R137): `Z[i] = W[i] +32 X[i]`. -/
def addWords (w x : Words16) : Words16 := Vector.ofFn fun i : Fin 16 => w[i] + x[i]

end Sys2Proof.Machine
end

