-- ==== Sys2Proof/Machine/ChaCha20.lean ====
section
/-! DEFINITION. CHACHA20_BLOCK (spec file 41_chacha20.md): the functions of R131 to R138 and the command R139. -/

namespace Sys2Proof.Machine

/-- `ChaChaInit(key, nonce, ctr)` (R132), the four constant words of R131 first. -/
def chachaInit (key : WordBytes 8) (nonce : WordBytes 3) (ctr : WordBytes 1) : Words16 :=
  #v[0x61707865, 0x3320646e, 0x79622d32, 0x6b206574,
     le32 key 0, le32 key 1, le32 key 2, le32 key 3,
     le32 key 4, le32 key 5, le32 key 6, le32 key 7,
     le32 ctr 0, le32 nonce 0, le32 nonce 1, le32 nonce 2]

/-- One half-line pair of `QR_C` (R133): `W[p] <- W[p] +32 W[q]; W[r] <- rotl32(W[r] ^ W[p], n)`. -/
def chachaStep (w0 : Words16) (p q r : Fin 16) (n : Nat) : Words16 :=
  let w1 := w0.set p (w0[p] + w0[q])
  w1.set r (rotl32 (w1[r] ^^^ w1[p]) n)

/-- `QR_C(W, a, b, c, d)` (R133), line by line. -/
def chachaQR (w0 : Words16) (t : Tuple) : Words16 :=
  let w1 := chachaStep w0 t.a t.b t.d 16
  let w2 := chachaStep w1 t.c t.d t.b 12
  let w3 := chachaStep w2 t.a t.b t.d 8
  chachaStep w3 t.c t.d t.b 7

/-- The tuples of the column round (R134; the index lists win, spec/90_conflicts.md C2). -/
def chachaColumns : List Tuple := [⟨0, 4, 8, 12⟩, ⟨1, 5, 9, 13⟩, ⟨2, 6, 10, 14⟩, ⟨3, 7, 11, 15⟩]

/-- The tuples of the diagonal round (R135). -/
def chachaDiagonals : List Tuple := [⟨0, 5, 10, 15⟩, ⟨1, 6, 11, 12⟩, ⟨2, 7, 8, 13⟩, ⟨3, 4, 9, 14⟩]

/-- `ColumnRound_C(W)` (R134). -/
def chachaColumnRound (w : Words16) : Words16 := applyTuples chachaQR w chachaColumns

/-- `DiagonalRound_C(W)` (R135). -/
def chachaDiagonalRound (w : Words16) : Words16 := applyTuples chachaQR w chachaDiagonals

/-- `DoubleRound_C(W)` (R136): the column round, then the diagonal round. -/
def chachaDoubleRound (w : Words16) : Words16 := chachaDiagonalRound (chachaColumnRound w)

/-- `Permute_C(X)` (R136): ten double-rounds. -/
def chachaPermute (x : Words16) : Words16 := iterate chachaDoubleRound Config.doubleRounds x

/-- The output words of an initial state (R136, R137). -/
def chachaWords (x : Words16) : Words16 := addWords (chachaPermute x) x

/-- `ChaCha20Block(key, nonce, ctr)` (R138). -/
def chacha20Block (key : WordBytes 8) (nonce : WordBytes 3) (ctr : WordBytes 1) : WordBytes 16 :=
  le32Bytes (chachaWords (chachaInit key nonce ctr))

/-- The completion step of CHACHA20_BLOCK (R139): X, W, OUT with every word marked written, `finish(OK)`. -/
def chachaComplete (s : State) : State :=
  let x := chachaInit s.cKey.bytes s.cNonce.bytes s.cCtr.bytes
  let w := chachaPermute x
  finish .ok { s with stateX := x, stateW := w, out := Buf.ofBytes (le32Bytes (addWords w x)) }

/-- CHACHA20_BLOCK (R139), the command's next step by PHASE: while IDLE its issue (R204); in its own phase the ENGINE's
completion step; while another operation runs the command word raises HF5 (R139, "Exceptions"). -/
def execChacha20Block (s : State) : StepOutcome :=
  match s.phase with
  | .idle => .next (accept .chacha20Block .chachaRun s)
  | .chachaRun => .next (chachaComplete s)
  | .salsaRun => .next (raise .hf5 s)
  | .kdfInit => .next (raise .hf5 s)
  | .kdfCheck => .next (raise .hf5 s)
  | .kdfWait => .next (raise .hf5 s)
  | .kdfRound => .next (raise .hf5 s)

end Sys2Proof.Machine
end

