-- ==== Sys2Proof/Machine/Salsa20.lean ====
section
/-! DEFINITION. SALSA20_BLOCK (spec file 40_salsa20.md): the functions of R102 to R109 and the command R110. -/

namespace Sys2Proof.Machine

/-- `SalsaInit(key, iv, ctr, const)` (R102). -/
def salsaInit (key : WordBytes 8) (iv ctr : WordBytes 2) (const : WordBytes 4) : Words16 :=
  #v[le32 const 0, le32 key 0, le32 key 1, le32 key 2,
     le32 key 3, le32 const 1, le32 iv 0, le32 iv 1,
     le32 ctr 0, le32 ctr 1, le32 const 2, le32 key 4,
     le32 key 5, le32 key 6, le32 key 7, le32 const 3]

/-- `QR_S(W, a, b, c, d)` (R103), each line using the values the lines before it left. -/
def salsaQR (w0 : Words16) (t : Tuple) : Words16 :=
  let w1 := w0.set t.b (w0[t.b] ^^^ rotl32 (w0[t.a] + w0[t.d]) 7)
  let w2 := w1.set t.c (w1[t.c] ^^^ rotl32 (w1[t.b] + w1[t.a]) 9)
  let w3 := w2.set t.d (w2[t.d] ^^^ rotl32 (w2[t.c] + w2[t.b]) 13)
  w3.set t.a (w3[t.a] ^^^ rotl32 (w3[t.d] + w3[t.c]) 18)

/-- The tuples of the column round (R104). -/
def salsaColumns : List Tuple := [⟨0, 4, 8, 12⟩, ⟨5, 9, 13, 1⟩, ⟨10, 14, 2, 6⟩, ⟨15, 3, 7, 11⟩]

/-- The tuples of the row round (R105). -/
def salsaRows : List Tuple := [⟨0, 1, 2, 3⟩, ⟨5, 6, 7, 4⟩, ⟨10, 11, 8, 9⟩, ⟨15, 12, 13, 14⟩]

/-- `ColumnRound_S(W)` (R104). -/
def salsaColumnRound (w : Words16) : Words16 := applyTuples salsaQR w salsaColumns

/-- `RowRound_S(W)` (R105). -/
def salsaRowRound (w : Words16) : Words16 := applyTuples salsaQR w salsaRows

/-- `DoubleRound_S(W)` (R106): the column round, then the row round. -/
def salsaDoubleRound (w : Words16) : Words16 := salsaRowRound (salsaColumnRound w)

/-- `Permute_S(X)` (R107): ten double-rounds. -/
def salsaPermute (x : Words16) : Words16 := iterate salsaDoubleRound Config.doubleRounds x

/-- The output words of an initial state (R107, R108). -/
def salsaWords (x : Words16) : Words16 := addWords (salsaPermute x) x

/-- `Salsa20Block(key, iv, ctr, const)` (R109). -/
def salsa20Block (key : WordBytes 8) (iv ctr : WordBytes 2) (const : WordBytes 4) : WordBytes 16 :=
  le32Bytes (salsaWords (salsaInit key iv ctr const))

/-- The completion step of SALSA20_BLOCK (R110): X, W, OUT with every word marked written, `finish(OK)`. -/
def salsaComplete (s : State) : State :=
  let x := salsaInit s.sKey.bytes s.sIv.bytes s.sCtr.bytes s.sConst.bytes
  let w := salsaPermute x
  finish .ok { s with stateX := x, stateW := w, out := Buf.ofBytes (le32Bytes (addWords w x)) }

/-- SALSA20_BLOCK (R110), the command's next step by PHASE: while IDLE its issue (R204); in its own phase the ENGINE's
completion step; while another operation runs the command word raises HF5 (R110, "Exceptions"). -/
def execSalsa20Block (s : State) : StepOutcome :=
  match s.phase with
  | .idle => .next (accept .salsa20Block .salsaRun s)
  | .salsaRun => .next (salsaComplete s)
  | .chachaRun => .next (raise .hf5 s)
  | .kdfInit => .next (raise .hf5 s)
  | .kdfCheck => .next (raise .hf5 s)
  | .kdfWait => .next (raise .hf5 s)
  | .kdfRound => .next (raise .hf5 s)

end Sys2Proof.Machine
end

