-- ==== Sys2Proof/Machine/Dispatch.lean ====
section
/-! DEFINITION. One arm per command: the next step of that command (its issue while IDLE, its ENGINE step while it is
in progress; log entry 3). -/

namespace Sys2Proof.Machine

def exec (i : Instr) (s : State) : Host.Outcome State Fault Refusal :=
  match i with
  | .salsa20Block => Sys2Proof.Machine.execSalsa20Block s
  | .chacha20Block => Sys2Proof.Machine.execChacha20Block s
  | .aeskdfTransform => Sys2Proof.Machine.execAeskdfTransform s

end Sys2Proof.Machine
end

