-- ==== Sys2Proof/Machine/HostInterface.lean ====
section
/-! DEFINITION. Host accesses (spec file 43_host_interface.md): admission R201, reads R202, writes R203 to R206. -/

namespace Sys2Proof.Machine

/-- Whether the word at a register of the window may be read (R37): the words with a clear `written` bit may not. -/
def slotReadable (s : State) : Slot → Bool
  | .buf b j => (s.buf b).isWritten j
  | .cmd => true
  | .status => true
  | .progResp => true
  | .kdfCtrl => true
  | .progIndexLo => true
  | .progIndexHi => true

/-- Check 7 of R201: a write to KDF_CTRL has bits 31:1 clear. Every other access passes it. -/
def ctrlWriteLegal : Access → Slot → Bool
  | .write _ _ v, .kdfCtrl => kdfCtrlLegal v
  | .write _ _ _, .cmd => true
  | .write _ _ _, .status => true
  | .write _ _ _, .progResp => true
  | .write _ _ _, .progIndexLo => true
  | .write _ _ _, .progIndexHi => true
  | .write _ _ _, .buf _ _ => true
  | .read _ _, _ => true

/-- Checks 3 to 7 of R201 on an access to a mapped register word; the first that fails names the fault (R238). -/
def admissionOf (a : Access) (slot : Slot) (s : State) : Except HostFault Slot :=
  if a.isRead && slot.writeOnly then .error .hf3
  else if !a.isRead && slot.readOnly then .error .hf4
  else if s.phase.busy && !Access.allowedWhileBusy a.isRead slot then .error .hf5
  else if !a.isRead && slot = .progResp && !s.phase.progReq then .error .hf8
  else if a.isRead && !slotReadable s slot then .error .hf6
  else if !ctrlWriteLegal a slot then .error .hf9
  else .ok slot

/-- Admission (R201): the register word an access reaches, or the host fault of the first check that fails. -/
def admission (a : Access) (s : State) : Except HostFault Slot :=
  if a.width ≠ 32 || a.off.toNat % 4 ≠ 0 then .error .hf2
  else
    match slotAt a.off.toNat with
    | none => .error .hf1
    | some slot => admissionOf a slot s

/-- The value a read of a register word returns (R202). CMD and PROG_RESP hold no value (R31, R34); admission refuses
their reads. -/
def slotValue (s : State) : Slot → Word
  | .status => statusWord s
  | .kdfCtrl => kdfCtrlWord s
  | .progIndexLo => s.progIndex.extractLsb' 0 32
  | .progIndexHi => s.progIndex.extractLsb' 32 32
  | .buf b j => (s.buf b).word j
  | .cmd => 0
  | .progResp => 0

/-- A write of CMD while IDLE (R204): an illegal word sets CMD_ERR and changes nothing else, a legal one is issued. -/
def issueCommand (v : Word) (s : State) : StepOutcome :=
  match decode v with
  | .error _ => .next { s with cmdErr := true }
  | .ok i => exec i s

/-- An admitted write (R203 to R206). Admission refuses writes of the read-only registers. -/
def performWrite (v : Word) (s : State) : Slot → StepOutcome
  | .cmd => issueCommand v s
  | .progResp => .next (answerRequest v s)
  | .kdfCtrl => .next { s with progressEn := progressEnOf v }
  | .buf b j => .next (s.setBuf b ((s.buf b).setWord j v))
  | .status => .next s
  | .progIndexLo => .next s
  | .progIndexHi => .next s

/-- An admitted access. A read has no effect but the word it returns (R67, R202). -/
def performAccess (a : Access) (slot : Slot) (s : State) : StepOutcome :=
  match a with
  | .read _ _ => .next { s with readData := slotValue s slot }
  | .write _ _ v => performWrite v s slot

/-- One host access (R200, R201): performed if it is admitted, else its host fault is raised and nothing else changes
(R236). -/
def hostAccess (a : Access) (s : State) : StepOutcome :=
  match admission a s with
  | .error code => .next (raise code s)
  | .ok slot => performAccess a slot s

/-- A HOST step that makes an access: enabled only where FAULTED is clear (R200; log entry 4). -/
def hostTurn (a : Access) (s : State) : StepOutcome :=
  match s.faulted with
  | some code => .fault (.hostFault code)
  | none => hostAccess a s

end Sys2Proof.Machine
end

