-- ==== Sys2Proof/Machine/HostProgram.lean ====
section
/-! DEFINITION. A host that runs a program (R88 to R90): one line a turn, `wr` and `rd` as host accesses, every other line
in the host alone (R89). -/

namespace Sys2Proof.Machine

/-- The value of a host variable, if it has been assigned. -/
def lookupVar (t : HostVar) : List (HostVar × DWord) → Option DWord
  | [] => none
  | (u, v) :: rest => if u = t then some v else lookupVar t rest

/-- The variables after `t <- v`: one entry each. -/
def assignVar (t : HostVar) (v : DWord) : List (HostVar × DWord) → List (HostVar × DWord)
  | [] => [(t, v)]
  | (u, w) :: rest => if u = t then (t, v) :: rest else (u, w) :: assignVar t v rest

/-- An operator at 64 bits (R89). -/
def HostOp.apply64 (o : HostOp) (a b : DWord) : DWord :=
  match o with
  | .add => a + b
  | .sub => a - b
  | .mul => a * b
  | .and => a &&& b
  | .or => a ||| b
  | .xor => a ^^^ b

/-- An operator at 32 bits (R89): on the low words, wrapping, widened with zeros. DESIGN CHOICE, log entry 27: a variable
has no width of its own, so an operand above 32 bits gives its low word. -/
def HostOp.apply32 (o : HostOp) (a b : DWord) : DWord :=
  ((o.apply64 a b).setWidth 32).setWidth 64

/-- The value of an expression; none where it names a variable that was never assigned. DESIGN CHOICE, log entry 28: bit
`k` of a variable at or past 64 is 0, and so are bits 63:32 of a variable that was given a 32-bit value. -/
def HostExpr.eval (vars : List (HostVar × DWord)) : HostExpr → Option DWord
  | .const v => some v
  | .var t => lookupVar t vars
  | .bit t k => (lookupVar t vars).map fun v => (BitVec.ofBool (v.getLsbD k)).setWidth 64
  | .op32 o a b =>
    match a.eval vars, b.eval vars with
    | some x, some y => some (o.apply32 x y)
    | some _, none => none
    | none, _ => none
  | .op64 o a b =>
    match a.eval vars, b.eval vars with
    | some x, some y => some (o.apply64 x y)
    | some _, none => none
    | none, _ => none

/-- The truth of a condition; none where it names a variable that was never assigned. Both sides are compared at 64 bits
(DESIGN CHOICE, log entry 27). -/
def HostCond.eval (vars : List (HostVar × DWord)) : HostCond → Option Bool
  | .eq a b =>
    match a.eval vars, b.eval vars with
    | some x, some y => some (x == y)
    | some _, none => none
    | none, _ => none
  | .ne a b =>
    match a.eval vars, b.eval vars with
    | some x, some y => some (x != y)
    | some _, none => none
    | none, _ => none
  | .both c d =>
    match c.eval vars, d.eval vars with
    | some x, some y => some (x && y)
    | some _, none => none
    | none, _ => none

/-- The data of a `wr` line (R88): a number, or a variable's current `u32` value. DESIGN CHOICE, log entry 27: where the
variable holds more than 32 bits, that is its low word. -/
def HostVal.eval (vars : List (HostVar × DWord)) : HostVal → Option Word
  | .const v => some v
  | .var t => (lookupVar t vars).map fun v => v.setWidth 32

/-- The index of the line after a label, searching from index `k` on. DESIGN CHOICE, log entry 25: of several lines with
the same label the first one counts. -/
def findLabel (l : Nat) (k : Nat) : List Line → Option Nat
  | [] => none
  | .label m :: rest => if m = l then some (k + 1) else findLabel l (k + 1) rest
  | .wr _ _ :: rest => findLabel l (k + 1) rest
  | .rd _ _ :: rest => findLabel l (k + 1) rest
  | .assign _ _ :: rest => findLabel l (k + 1) rest
  | .ifGoto _ _ :: rest => findLabel l (k + 1) rest
  | .goto _ :: rest => findLabel l (k + 1) rest
  | .halt :: rest => findLabel l (k + 1) rest

/-- The host at its next line. -/
def HostState.advance (h : HostState) : HostState := { h with line := h.line + 1 }

/-- The host at the line after label `l`, if there is one. -/
def HostState.jump (l : Nat) (h : HostState) : Option HostState :=
  (findLabel l 0 h.program).map fun k => { h with line := k }

/-- A state with its host agent replaced. -/
def State.withHost (s : State) (h : HostState) : State := { s with host := h }

/-- A host-local line's outcome: the host as given, the block untouched (R89); stuck where the notation gives none. -/
def hostMoves (s : State) : Option HostState → StepOutcome
  | some h => .next (s.withHost h)
  | none => .fault .hostProgramStuck

/-- A line that makes an access: the access, and then the host moves on as `after` says, unless the access raised a
host fault (R236: "the access changes nothing else"). -/
def accessThen (a : Access) (after : State → HostState) (s : State) : StepOutcome :=
  match hostTurn a s with
  | .next t => .next (if t.faulted.isSome then t else t.withHost (after t))
  | .fault f => .fault f
  | .refused r => .refused r

/-- One line of a host program (R88, R89). -/
def runLine (line : Line) (s : State) : StepOutcome :=
  match line with
  | .wr off val =>
    match val.eval s.host.vars with
    | some v => accessThen (.write 32 off v) (fun t => t.host.advance) s
    | none => .fault .hostProgramStuck
  | .rd t off =>
    accessThen (.read 32 off)
      (fun u => { u.host.advance with vars := assignVar t (u.readData.setWidth 64) u.host.vars }) s
  | .label _ => hostMoves s (some s.host.advance)
  | .assign t e =>
    hostMoves s ((e.eval s.host.vars).map fun v =>
      { s.host.advance with vars := assignVar t v s.host.vars })
  | .ifGoto c l =>
    match c.eval s.host.vars with
    | some true => hostMoves s (s.host.jump l)
    | some false => hostMoves s (some s.host.advance)
    | none => .fault .hostProgramStuck
  | .goto l => hostMoves s (s.host.jump l)
  | .halt => hostMoves s (some { s.host with halted := true })

/-- A turn of a host that runs a program: its next line; nothing once it has halted (R209). -/
def programTurn (s : State) : StepOutcome :=
  if s.host.halted then .next s
  else
    match s.host.program[s.host.line]? with
    | some line => runLine line s
    | none => .fault .hostProgramStuck

end Sys2Proof.Machine
end

