-- ==== Sys2Proof/Machine/Scheduler.lean ====
section
/-! DEFINITION. One step of the whole system (R72: "a sequence of steps, each a host access or an ENGINE step"): the turn
that stands first in State takes place (log entries 1 and 2). -/

namespace Sys2Proof.Machine

/-- The command in progress, which PHASE names (R22, R23): what the ENGINE steps. -/
def Phase.running : Phase → Option Instr
  | .idle => none
  | .salsaRun => some .salsa20Block
  | .chachaRun => some .chacha20Block
  | .kdfInit => some .aeskdfTransform
  | .kdfCheck => some .aeskdfTransform
  | .kdfWait => some .aeskdfTransform
  | .kdfRound => some .aeskdfTransform

/-- A turn of the ENGINE: the step of the command in progress; nothing where it is not enabled. -/
def engineTurn (s : State) : StepOutcome :=
  match s.phase.running with
  | some i => exec i s
  | none => .next s

/-- One turn (R20, R200, R270). -/
def takeTurn (t : Turn) (s : State) : StepOutcome :=
  match t with
  | .engine => engineTurn s
  | .access a => hostTurn a s
  | .program => programTurn s
  | .reset => .next (resetEvent s)

/-- With no turn left the host takes no further step: the ENGINE goes on while it is enabled (R207), an idle block
waits for a command (R273), and an unanswered progress request is a hang (R280). -/
def unattended (s : State) : StepOutcome :=
  match s.phase with
  | .kdfWait => .fault .hang
  | .idle => .next s
  | .salsaRun => engineTurn s
  | .chachaRun => engineTurn s
  | .kdfInit => engineTurn s
  | .kdfCheck => engineTurn s
  | .kdfRound => engineTurn s

/-- The state once the first of the turns to come is past. -/
def State.pastTurn (s : State) : State := { s with turns := s.turns.tail }

/-- The next step: the first of the turns to come, which is then past. -/
def nextStep (s : State) : StepOutcome :=
  match s.turns with
  | [] => unattended s
  | t :: _ => takeTurn t s.pastTurn

/-- A state whose very next step is the host's write of `w` to CMD, admitted: IDLE, FAULTED clear (log entry 13). -/
def placeCommand (w : Word) (s : State) : State :=
  { s with phase := .idle, faulted := none, turns := .access (.write 32 0x000 w) :: s.turns }

end Sys2Proof.Machine
end

