-- ==== Sys2Proof/Machine/Step.lean ====
section
/-! DEFINITION. The machine's step, and how a command word is placed where the next step takes it. -/

namespace Sys2Proof.Machine

/-- One step of the system (Machine/Scheduler.lean). -/
def step (s : State) : Host.Outcome State Fault Refusal := nextStep s

/-- The block fetches nothing (R22): a command is the word the host writes to CMD. This state's next step is that
write (log entry 13). -/
def State.withFetchWord (s : State) (nbits w : Nat) : State := placeCommand (tableWord nbits w) s

end Sys2Proof.Machine
end

