-- ==== Sys2Proof/Safety.lean ====
section
/-! DEFINITION. What counts as the end of a run (R209), and the invariant of the block: the facts the spec states about
every state a run reaches; and the host's turns in a run that answers every progress request. -/

namespace Sys2Proof.Machine

/-- The end of a run (R209): the host program has executed `halt`, PHASE is IDLE and FAULTED is clear. -/
abbrev State.EndOfRun (s : State) : Prop := s.host.halted = true ∧ s.phase = .idle ∧ s.faulted = none

/-- The invariant of the block. -/
structure State.Inv (s : State) : Prop where
  /-- R27: "While BUSY = 1 it reads 0". -/
  resultWhileBusy : s.phase.busy = true → s.result = .ok
  /-- R28, R204: CMD_ERR is cleared at acceptance and set only while IDLE. -/
  cmdErrWhileBusy : s.phase.busy = true → s.cmdErr = false
  /-- R204, R37: the operands of the command in progress are valid. -/
  operands : ∀ i, s.phase.running = some i → operandsValid i s = true
  /-- R164: `0 <= I <= N` in the loop. -/
  roundBound : s.phase.inLoop = true → s.roundIndex.toNat ≤ (roundCount s).toNat
  /-- R164, R165: a round that is asked about or to be applied is below `N`. -/
  roundPending : s.phase = .kdfWait ∨ s.phase = .kdfRound → s.roundIndex.toNat < (roundCount s).toNat
  /-- R165, R166: an outstanding request is for round I, at the cadence, with PROGRESS_EN set. -/
  request : s.phase = .kdfWait →
    s.progIndex = s.roundIndex ∧ s.progressEn = true ∧ s.roundIndex.toNat % Config.progressInterval = 0
  /-- R50: in the loop the AES context is that of KDF_SEED. -/
  contextInLoop : s.phase.inLoop = true → s.aesContext = some s.kdfSeed.bytes
  /-- R50, R271: outside it there is none. -/
  contextOutside : s.phase.inLoop = false → s.aesContext = none

/-- The turns of rounds `i` to `i + n - 1` of an AES-KDF run with PROGRESS_EN = 1 whose host answers "continue" to every
request: a check, the answer where round `i` is at the cadence (R165, R167), and the round (R169). -/
def roundTurns (i : Nat) : Nat → List Turn
  | 0 => []
  | n + 1 =>
    .engine :: ((if i % Config.progressInterval = 0 then [.access (.write 32 0x008 0)] else []) ++
      .engine :: roundTurns (i + 1) n)

end Sys2Proof.Machine
end

