-- ==== Sys2Proof/Certificates/Slice0/Obligations.lean ====
section
/-! DEFINITION. The statements for the provers: what the numbered rules of the spec say the block does. -/

open Sys2Proof Sys2Proof.Machine

/-! ## Encoding (30_encoding.md) -/

/-- 95_test_vectors.md section 4.1 (R82, R83): the three command words, and illegal words by name. -/
def Obligations.CommandWordsOfTheTable : Prop :=
  decode 0x00000001 = .ok .salsa20Block ∧
  decode 0x00000002 = .ok .chacha20Block ∧
  decode 0x00000003 = .ok .aeskdfTransform ∧
  decode 0x00000000 = .error .opZero ∧
  decode 0x00000004 = .error (.opUnassigned 0x04) ∧
  decode 0x000000FF = .error (.opUnassigned 0xFF) ∧
  decode 0x00000101 = .error .reservedBits ∧
  decode 0x80000002 = .error .reservedBits ∧
  decode 0xFFFFFFFF = .error .reservedBits

/-- R82, R83: each command has exactly one word, and a word is refused exactly when OP is 0x00 or in 0x04..0xFF or some
bit of 31:8 is set. -/
def Obligations.DecodeAcceptsExactlyTheTable : Prop :=
  ∀ w : Word,
    (decode w = .ok .salsa20Block ↔ w = 0x00000001) ∧
    (decode w = .ok .chacha20Block ↔ w = 0x00000002) ∧
    (decode w = .ok .aeskdfTransform ↔ w = 0x00000003) ∧
    ((∃ e, decode w = .error e) ↔
      (w.extractLsb' 0 8 = 0 ∨ 4 ≤ (w.extractLsb' 0 8).toNat ∨ w.extractLsb' 8 24 ≠ 0))

/-- R63, R80, R82: the bytes of a command word decode to the command and the rest, and only they do. -/
def Obligations.EncodedBytesDecodeBack : Prop :=
  ∀ (i : Instr) (rest : List Byte),
    decodeBytes (encodeBytes i ++ rest) = .ok (i, rest) ∧
    ∀ bs, decodeBytes bs = .ok (i, rest) → bs = encodeBytes i ++ rest

/-! ## Step (10_state.md R22, 20_memory.md R72; log entries 1, 2, 3, 13) -/

/-- R22, R204: an admitted CMD write of a command's word runs the command, an ENGINE turn runs the command in progress,
and so does a step with no turn left unless a progress request is outstanding. The turns, the step with none left, the meaning
of `exec` and the placed word are the model's (log entries 1, 2, 3, 13), and so is that the ENGINE steps also where FAULTED
is set (log entry 4). -/
def Obligations.StepRunsTheCommand : Prop :=
  ∀ (s : State) (i : Instr),
    (∀ w rest, s.phase = .idle → s.faulted = none → s.turns = .access (.write 32 0x000 w) :: rest →
      decode w = .ok i → step s = exec i s.pastTurn) ∧
    (∀ rest, s.phase.running = some i → s.turns = .engine :: rest → step s = exec i s.pastTurn) ∧
    (s.phase.running = some i → s.turns = [] → s.phase ≠ .kdfWait → step s = exec i s) ∧
    (∀ n w, decodeTableWord n w = some i →
      step (s.withFetchWord n w) = exec i { s with phase := .idle, faulted := none })

/-! ## Reset (70_reset_and_hazards.md) -/

/-- R271: what reset leaves, by the values the spec gives; a read of any buffer word is HF6. -/
def Obligations.ResetLeavesTheGivenValues : Prop :=
  State.reset.phase = .idle ∧ statusWord State.reset = 0 ∧ kdfCtrlWord State.reset = 0 ∧
  State.reset.progIndex = 0 ∧ State.reset.aesContext = none ∧ State.reset.faulted = none ∧
  ∀ (b : BufName) (j : Fin b.words),
    (State.reset.buf b).isWritten j = false ∧
    hostTurn (.read 32 (BitVec.ofNat 32 (Slot.buf b j).offset)) State.reset =
      .next { State.reset with faulted := some .hf6 }

/-- R270, R272: the reset event takes effect in any phase, in one step, and keeps FAULTED. That it leaves the host agent
and the turns to come is the model's reading (log entry 9). -/
def Obligations.ResetEventInAnyPhase : Prop :=
  ∀ (s : State) (rest : List Turn), s.turns = .reset :: rest →
    ∃ t : State, step s = .next t ∧
      t.phase = .idle ∧ statusWord t = 0 ∧ kdfCtrlWord t = 0 ∧ t.progIndex = 0 ∧ t.aesContext = none ∧
      (∀ (b : BufName) (j : Fin b.words), (t.buf b).isWritten j = false) ∧
      t.faulted = s.faulted ∧ t.host = s.host ∧ t.turns = rest

/-! ## The window (10_state.md R54, 20_memory.md) -/

/-- R54, R70: which register word stands at which offset. -/
def Obligations.RegisterMap : Prop :=
  slotAt 0x000 = some .cmd ∧ slotAt 0x004 = some .status ∧ slotAt 0x008 = some .progResp ∧
  slotAt 0x00C = some .kdfCtrl ∧ slotAt 0x010 = some .progIndexLo ∧ slotAt 0x014 = some .progIndexHi ∧
  (∀ j : Fin 2, slotAt (0x018 + 4 * j.val) = some (.buf .kdfRounds j)) ∧
  (∀ j : Fin 8, slotAt (0x040 + 4 * j.val) = some (.buf .kdfSeed j)) ∧
  (∀ j : Fin 8, slotAt (0x060 + 4 * j.val) = some (.buf .kdfKey j)) ∧
  (∀ j : Fin 8, slotAt (0x080 + 4 * j.val) = some (.buf .sKey j)) ∧
  (∀ j : Fin 2, slotAt (0x0A0 + 4 * j.val) = some (.buf .sIv j)) ∧
  (∀ j : Fin 2, slotAt (0x0A8 + 4 * j.val) = some (.buf .sCtr j)) ∧
  (∀ j : Fin 4, slotAt (0x0B0 + 4 * j.val) = some (.buf .sConst j)) ∧
  (∀ j : Fin 8, slotAt (0x0C0 + 4 * j.val) = some (.buf .cKey j)) ∧
  (∀ j : Fin 3, slotAt (0x0E0 + 4 * j.val) = some (.buf .cNonce j)) ∧
  (∀ j : Fin 1, slotAt (0x0EC + 4 * j.val) = some (.buf .cCtr j)) ∧
  (∀ j : Fin 16, slotAt (0x100 + 4 * j.val) = some (.buf .out j)) ∧
  (∀ off, slotAt off = none ↔ (0x020 ≤ off ∧ off < 0x040) ∨ (0x0F0 ≤ off ∧ off < 0x100) ∨ 0x140 ≤ off) ∧
  (∀ off slot, off % 4 = 0 → slotAt off = some slot → slot.offset = off)

/-! ## Host accesses (43_host_interface.md) -/

/-- R64: an access of another width or at another offset than a multiple of 4 is HF2 and has no other effect. -/
def Obligations.BadWidthOrAlignment : Prop :=
  ∀ (s : State) (a : Access), s.faulted = none → (a.width ≠ 32 ∨ a.off.toNat % 4 ≠ 0) →
    hostTurn a s = .next { s with faulted := some .hf2 }

/-- R70: an access to an unmapped offset is HF1 and has no other effect. -/
def Obligations.UnmappedOffset : Prop :=
  ∀ (s : State) (a : Access), s.faulted = none → a.width = 32 → a.off.toNat % 4 = 0 →
    ((0x020 ≤ a.off.toNat ∧ a.off.toNat < 0x040) ∨ (0x0F0 ≤ a.off.toNat ∧ a.off.toNat < 0x100) ∨
      0x140 ≤ a.off.toNat) →
    hostTurn a s = .next { s with faulted := some .hf1 }

/-- R201 check 3: in every phase a read of a write-only register is HF3 and a write of a read-only register HF4. -/
def Obligations.WrongDirection : Prop :=
  ∀ (s : State), s.faulted = none →
    (∀ off : Word, off = 0x000 ∨ off = 0x008 →
      hostTurn (.read 32 off) s = .next { s with faulted := some .hf3 }) ∧
    (∀ off v : Word, off = 0x004 ∨ off = 0x010 ∨ off = 0x014 ∨
        (0x100 ≤ off.toNat ∧ off.toNat < 0x140 ∧ off.toNat % 4 = 0) →
      hostTurn (.write 32 off v) s = .next { s with faulted := some .hf4 })

/-- R201 check 4, R276: while BUSY the reads of STATUS and PROG_INDEX are admitted, and every read of another readable
register and every write of a writable one but PROG_RESP is HF5. A read's word is in the model's `readData` (log entry
12). -/
def Obligations.BusyWindow : Prop :=
  ∀ (s : State), s.faulted = none → s.phase ≠ .idle →
    hostTurn (.read 32 0x004) s = .next { s with readData := statusWord s } ∧
    hostTurn (.read 32 0x010) s = .next { s with readData := s.progIndex.extractLsb' 0 32 } ∧
    hostTurn (.read 32 0x014) s = .next { s with readData := s.progIndex.extractLsb' 32 32 } ∧
    hostTurn (.read 32 0x00C) s = .next { s with faulted := some .hf5 } ∧
    (∀ v, hostTurn (.write 32 0x000 v) s = .next { s with faulted := some .hf5 }) ∧
    (∀ v, hostTurn (.write 32 0x00C v) s = .next { s with faulted := some .hf5 }) ∧
    ∀ (b : BufName) (j : Fin b.words),
      hostTurn (.read 32 (BitVec.ofNat 32 (Slot.buf b j).offset)) s = .next { s with faulted := some .hf5 } ∧
      (b ≠ .out → ∀ v,
        hostTurn (.write 32 (BitVec.ofNat 32 (Slot.buf b j).offset) v) s = .next { s with faulted := some .hf5 })

/-- R202, R37: while IDLE the readable registers return their words, an unwritten buffer word is HF6, and nothing else
changes. A read's word is in the model's `readData` (log entry 12). -/
def Obligations.ReadsReturnWords : Prop :=
  ∀ (s : State), s.faulted = none → s.phase = .idle →
    hostTurn (.read 32 0x004) s = .next { s with readData := statusWord s } ∧
    hostTurn (.read 32 0x00C) s = .next { s with readData := if s.progressEn then 1 else 0 } ∧
    hostTurn (.read 32 0x010) s = .next { s with readData := s.progIndex.extractLsb' 0 32 } ∧
    hostTurn (.read 32 0x014) s = .next { s with readData := s.progIndex.extractLsb' 32 32 } ∧
    ∀ (b : BufName) (j : Fin b.words),
      hostTurn (.read 32 (BitVec.ofNat 32 (Slot.buf b j).offset)) s =
        .next (if (s.buf b).isWritten j then { s with readData := le32 (s.buf b).bytes j }
          else { s with faulted := some .hf6 })

/-- R67: no read changes the block: only the word it returns (the model's `readData`, log entry 12) or FAULTED. -/
def Obligations.ReadsHaveNoSideEffect : Prop :=
  ∀ (s t : State) (a : Access), a.isRead = true → hostTurn a s = .next t →
    t = { s with readData := t.readData, faulted := t.faulted }

/-- R30: the STATUS word, field by field; bits 31:5 are 0, RESULT is never 3, PROG_REQ implies BUSY. A read's word is in
the model's `readData` (log entry 12). -/
def Obligations.StatusReadReturnsTheFlags : Prop :=
  ∀ (s : State), s.faulted = none →
    ∃ w : Word, hostTurn (.read 32 0x004) s = .next { s with readData := w } ∧
      w.getLsbD 0 = decide (s.phase ≠ .idle) ∧
      w.getLsbD 1 = decide (s.phase = .kdfWait) ∧
      w.extractLsb' 2 2 = s.result.code ∧
      w.getLsbD 4 = s.cmdErr ∧
      w.extractLsb' 5 27 = 0 ∧
      w.extractLsb' 2 2 ≠ 3 ∧
      (w.getLsbD 1 = true → w.getLsbD 0 = true)

/-- R203: a write of an operand word, while IDLE: that word and its `written` bit, and nothing else. -/
def Obligations.OperandWrite : Prop :=
  ∀ (s : State) (b : BufName) (j : Fin b.words) (v : Word), s.faulted = none → s.phase = .idle → b ≠ .out →
    ∃ new : Buf b.words,
      hostTurn (.write 32 (BitVec.ofNat 32 (Slot.buf b j).offset) v) s = .next (s.setBuf b new) ∧
      new.word j = v ∧ new.isWritten j = true ∧
      (∀ k, k ≠ j → new.word k = (s.buf b).word k ∧ new.isWritten k = (s.buf b).isWritten k) ∧
      (∀ c, c ≠ b → (s.setBuf b new).buf c = s.buf c) ∧
      statusWord (s.setBuf b new) = statusWord s

/-- R63, R65, R72: an operand word reads back as it was written, into the model's `readData` (log entry 12). -/
def Obligations.WriteThenRead : Prop :=
  ∀ (s t : State) (b : BufName) (j : Fin b.words) (v : Word), s.faulted = none → s.phase = .idle → b ≠ .out →
    hostTurn (.write 32 (BitVec.ofNat 32 (Slot.buf b j).offset) v) s = .next t →
    hostTurn (.read 32 (BitVec.ofNat 32 (Slot.buf b j).offset)) t = .next { t with readData := v }

/-- R33, R205: KDF_CTRL: reset value, HF9, HF5, its write and its read (into the model's `readData`, log entry 12). -/
def Obligations.KdfCtrlRegister : Prop :=
  kdfCtrlWord State.reset = 0 ∧
  ∀ (s : State) (v : Word), s.faulted = none →
    (s.phase = .idle → v.extractLsb' 1 31 ≠ 0 →
      hostTurn (.write 32 0x00C v) s = .next { s with faulted := some .hf9 }) ∧
    (s.phase = .idle → v.extractLsb' 1 31 = 0 →
      hostTurn (.write 32 0x00C v) s = .next { s with progressEn := v.getLsbD 0 }) ∧
    (s.phase = .idle →
      hostTurn (.read 32 0x00C) s = .next { s with readData := if s.progressEn then 1 else 0 }) ∧
    (s.phase ≠ .idle → hostTurn (.write 32 0x00C v) s = .next { s with faulted := some .hf5 })

/-- R34, R85, R206: PROG_RESP. A stop also discards the AES context (R50; log entry 11) and keeps I (log entry
26). -/
def Obligations.ProgRespRegister : Prop :=
  ∀ (s : State) (v : Word), s.faulted = none →
    hostTurn (.read 32 0x008) s = .next { s with faulted := some .hf3 } ∧
    (s.phase ≠ .kdfWait → hostTurn (.write 32 0x008 v) s = .next { s with faulted := some .hf8 }) ∧
    (s.phase = .kdfWait → v = 0 → hostTurn (.write 32 0x008 v) s = .next { s with phase := .kdfRound }) ∧
    (s.phase = .kdfWait → v ≠ 0 →
      hostTurn (.write 32 0x008 v) s = .next { s with phase := .idle, result := .ok, aesContext := none })

/-- R204, R234: the command issue, word by word. -/
def Obligations.CommandIssue : Prop :=
  ∀ (s : State) (v : Word), s.faulted = none → s.phase = .idle →
    (v = 1 → hostTurn (.write 32 0x000 v) s =
      .next (if s.sKey.valid && s.sIv.valid && s.sCtr.valid && s.sConst.valid then
          { s with result := .ok, cmdErr := false, phase := .salsaRun }
        else { s with faulted := some .hf7 })) ∧
    (v = 2 → hostTurn (.write 32 0x000 v) s =
      .next (if s.cKey.valid && s.cNonce.valid && s.cCtr.valid then
          { s with result := .ok, cmdErr := false, phase := .chachaRun }
        else { s with faulted := some .hf7 })) ∧
    (v = 3 → hostTurn (.write 32 0x000 v) s =
      .next (if s.kdfSeed.valid && s.kdfKey.valid && s.kdfRounds.valid then
          { s with result := .ok, cmdErr := false, phase := .kdfInit }
        else { s with faulted := some .hf7 })) ∧
    (v ≠ 1 → v ≠ 2 → v ≠ 3 → hostTurn (.write 32 0x000 v) s = .next { s with cmdErr := true })

/-- R236: an access that raises a host fault sets FAULTED with its code and changes nothing else, and the state is not
an end of a run. -/
def Obligations.HostFaultChangesNothingElse : Prop :=
  ∀ (s t : State) (a : Access) (code : HostFault), s.faulted = none → hostTurn a s = .next t →
    t.faulted = some code → t = { s with faulted := some code } ∧ ¬ t.EndOfRun

/-- R51: no step clears FAULTED or changes its code, the reset event included, and no state with FAULTED set is an end
of a run. -/
def Obligations.FaultedIsNeverCleared : Prop :=
  (∀ (s : State) (code : HostFault), (raise code s).faulted = some code) ∧
  ∀ (s t : State) (code : HostFault), s.faulted = some code → step s = .next t →
    t.faulted = some code ∧ ¬ t.EndOfRun

/-- R200, R236 (log entry 4): a HOST access where FAULTED is set is not enabled: the model stops there. -/
def Obligations.HostStepAfterFaultStops : Prop :=
  ∀ (s : State) (a : Access) (code : HostFault) (rest : List Turn),
    s.faulted = some code → s.turns = .access a :: rest → step s = .fault (.hostFault code)

/-! ## The commands: issue and frame -/

/-- R110, R139, R172, R204: each command, issued while IDLE with its operands valid, is accepted. -/
def Obligations.EachCommandIsAccepted : Prop :=
  ∀ (s : State), s.phase = .idle →
    (s.sKey.valid = true → s.sIv.valid = true → s.sCtr.valid = true → s.sConst.valid = true →
      exec .salsa20Block s = .next { s with result := .ok, cmdErr := false, phase := .salsaRun }) ∧
    (s.cKey.valid = true → s.cNonce.valid = true → s.cCtr.valid = true →
      exec .chacha20Block s = .next { s with result := .ok, cmdErr := false, phase := .chachaRun }) ∧
    (s.kdfSeed.valid = true → s.kdfKey.valid = true → s.kdfRounds.valid = true →
      exec .aeskdfTransform s = .next { s with result := .ok, cmdErr := false, phase := .kdfInit })

/-- R53: the frame of the three commands, in every phase: SALSA20_BLOCK and CHACHA20_BLOCK write only OUT, STATUS and
PHASE (and the hidden X and W), AESKDF_TRANSFORM only KDF_KEY, PROG_INDEX, STATUS, PHASE and I (and the hidden AES
context and the model's draws); FAULTED is the model's record of a host fault (log entries 6, 10, 11). -/
def Obligations.InputsAreNeverWritten : Prop :=
  ∀ (s t : State),
    (exec .salsa20Block s = .next t ∨ exec .chacha20Block s = .next t →
      t = { s with
        out := t.out, result := t.result, cmdErr := t.cmdErr, phase := t.phase,
        stateX := t.stateX, stateW := t.stateW, faulted := t.faulted }) ∧
    (exec .aeskdfTransform s = .next t →
      t = { s with
        kdfKey := t.kdfKey, progIndex := t.progIndex, result := t.result, cmdErr := t.cmdErr, phase := t.phase,
        roundIndex := t.roundIndex, aesContext := t.aesContext, faulted := t.faulted,
        draws := t.draws, fresh := t.fresh })

/-! ## SALSA20_BLOCK (40_salsa20.md) -/

/-- R102: the initial state, word by word. -/
def Obligations.SalsaInitialState : Prop :=
  ∀ (key : WordBytes 8) (iv ctr : WordBytes 2) (const : WordBytes 4),
    (salsaInit key iv ctr const).toList =
      [le32 const 0, le32 key 0, le32 key 1, le32 key 2, le32 key 3, le32 const 1, le32 iv 0, le32 iv 1,
       le32 ctr 0, le32 ctr 1, le32 const 2, le32 key 4, le32 key 5, le32 key 6, le32 key 7, le32 const 3]

/-- R103: the quarter-round on four different words: each line uses the values the lines before it left, and the other
twelve words stay. -/
def Obligations.SalsaQuarterRound : Prop :=
  ∀ (w : Words16) (a b c d : Fin 16), [a, b, c, d].Nodup →
    let b' := w[b] ^^^ rotl32 (w[a] + w[d]) 7
    let c' := w[c] ^^^ rotl32 (b' + w[a]) 9
    let d' := w[d] ^^^ rotl32 (c' + b') 13
    let a' := w[a] ^^^ rotl32 (d' + c') 18
    (salsaQR w ⟨a, b, c, d⟩)[a] = a' ∧ (salsaQR w ⟨a, b, c, d⟩)[b] = b' ∧
    (salsaQR w ⟨a, b, c, d⟩)[c] = c' ∧ (salsaQR w ⟨a, b, c, d⟩)[d] = d' ∧
    ∀ k : Fin 16, k ∉ [a, b, c, d] → (salsaQR w ⟨a, b, c, d⟩)[k] = w[k]

/-- R104, R105: the tuples of the column round and of the row round, whose order does not matter. -/
def Obligations.SalsaRoundTuples : Prop :=
  ∀ (w : Words16) (ts : List Tuple),
    (ts.Perm [⟨0, 4, 8, 12⟩, ⟨5, 9, 13, 1⟩, ⟨10, 14, 2, 6⟩, ⟨15, 3, 7, 11⟩] →
      ts.foldl salsaQR w = salsaColumnRound w) ∧
    (ts.Perm [⟨0, 1, 2, 3⟩, ⟨5, 6, 7, 4⟩, ⟨10, 11, 8, 9⟩, ⟨15, 12, 13, 14⟩] →
      ts.foldl salsaQR w = salsaRowRound w)

/-- R106, R107: ten double-rounds, each a column round and then a row round. -/
def Obligations.SalsaTwentyRounds : Prop :=
  ∀ x : Words16, salsaPermute x = (fun w => salsaRowRound (salsaColumnRound w))^[10] x

/-- R108, R109, R110: the completion step of SALSA20_BLOCK. Word `j` of OUT is the final word plus the initial word. -/
def Obligations.SalsaCompletes : Prop :=
  ∀ s : State, s.phase = .salsaRun →
    let x := salsaInit s.sKey.bytes s.sIv.bytes s.sCtr.bytes s.sConst.bytes
    let w := salsaPermute x
    ∃ t : State, exec .salsa20Block s = .next t ∧
      t = { s with stateX := t.stateX, stateW := t.stateW, out := t.out, result := .ok, phase := .idle } ∧
      t.out.bytes = salsa20Block s.sKey.bytes s.sIv.bytes s.sCtr.bytes s.sConst.bytes ∧
      ∀ j : Fin 16, t.out.word j = w[j] + x[j] ∧ t.out.isWritten j = true

/-- R110: the whole command from its CMD write: accepted, run, and the block IDLE again with the result in OUT. Who moves
when is the model's list of turns (log entry 1). -/
def Obligations.SalsaWholeCommand : Prop :=
  ∀ (s : State) (rest : List Turn), s.phase = .idle → s.faulted = none →
    s.sKey.valid = true → s.sIv.valid = true → s.sCtr.valid = true → s.sConst.valid = true →
    s.turns = .access (.write 32 0x000 0x00000001) :: .engine :: rest →
    ∃ t u : State, step s = .next t ∧ statusWord t = 1 ∧ step t = .next u ∧ statusWord u = 0 ∧
      u.out.bytes = salsa20Block s.sKey.bytes s.sIv.bytes s.sCtr.bytes s.sConst.bytes ∧ u.out.valid = true ∧
      u = { s with
        out := u.out, stateX := u.stateX, stateW := u.stateW, result := .ok, cmdErr := false, turns := rest }

/-! ## CHACHA20_BLOCK (41_chacha20.md) -/

/-- R131, R132: the initial state, word by word. -/
def Obligations.ChachaInitialState : Prop :=
  ∀ (key : WordBytes 8) (nonce : WordBytes 3) (ctr : WordBytes 1),
    (chachaInit key nonce ctr).toList =
      [0x61707865, 0x3320646e, 0x79622d32, 0x6b206574, le32 key 0, le32 key 1, le32 key 2, le32 key 3,
       le32 key 4, le32 key 5, le32 key 6, le32 key 7, le32 ctr 0, le32 nonce 0, le32 nonce 1, le32 nonce 2]

/-- R133: the quarter-round on four different words, and the other twelve words stay. -/
def Obligations.ChachaQuarterRound : Prop :=
  ∀ (w : Words16) (a b c d : Fin 16), [a, b, c, d].Nodup →
    let a1 := w[a] + w[b]
    let d1 := rotl32 (w[d] ^^^ a1) 16
    let c1 := w[c] + d1
    let b1 := rotl32 (w[b] ^^^ c1) 12
    let a2 := a1 + b1
    let d2 := rotl32 (d1 ^^^ a2) 8
    let c2 := c1 + d2
    let b2 := rotl32 (b1 ^^^ c2) 7
    (chachaQR w ⟨a, b, c, d⟩)[a] = a2 ∧ (chachaQR w ⟨a, b, c, d⟩)[b] = b2 ∧
    (chachaQR w ⟨a, b, c, d⟩)[c] = c2 ∧ (chachaQR w ⟨a, b, c, d⟩)[d] = d2 ∧
    ∀ k : Fin 16, k ∉ [a, b, c, d] → (chachaQR w ⟨a, b, c, d⟩)[k] = w[k]

/-- R134, R135: the tuples of the column round and of the diagonal round, whose order does not matter. -/
def Obligations.ChachaRoundTuples : Prop :=
  ∀ (w : Words16) (ts : List Tuple),
    (ts.Perm [⟨0, 4, 8, 12⟩, ⟨1, 5, 9, 13⟩, ⟨2, 6, 10, 14⟩, ⟨3, 7, 11, 15⟩] →
      ts.foldl chachaQR w = chachaColumnRound w) ∧
    (ts.Perm [⟨0, 5, 10, 15⟩, ⟨1, 6, 11, 12⟩, ⟨2, 7, 8, 13⟩, ⟨3, 4, 9, 14⟩] →
      ts.foldl chachaQR w = chachaDiagonalRound w)

/-- R136: ten double-rounds, each a column round and then a diagonal round. -/
def Obligations.ChachaTwentyRounds : Prop :=
  ∀ x : Words16, chachaPermute x = (fun w => chachaDiagonalRound (chachaColumnRound w))^[10] x

/-- R137, R138, R139: the completion step of CHACHA20_BLOCK. -/
def Obligations.ChachaCompletes : Prop :=
  ∀ s : State, s.phase = .chachaRun →
    let x := chachaInit s.cKey.bytes s.cNonce.bytes s.cCtr.bytes
    let w := chachaPermute x
    ∃ t : State, exec .chacha20Block s = .next t ∧
      t = { s with stateX := t.stateX, stateW := t.stateW, out := t.out, result := .ok, phase := .idle } ∧
      t.out.bytes = chacha20Block s.cKey.bytes s.cNonce.bytes s.cCtr.bytes ∧
      ∀ j : Fin 16, t.out.word j = w[j] + x[j] ∧ t.out.isWritten j = true

/-- R139: the whole command from its CMD write. Who moves when is the model's list of turns (log entry 1). -/
def Obligations.ChachaWholeCommand : Prop :=
  ∀ (s : State) (rest : List Turn), s.phase = .idle → s.faulted = none →
    s.cKey.valid = true → s.cNonce.valid = true → s.cCtr.valid = true →
    s.turns = .access (.write 32 0x000 0x00000002) :: .engine :: rest →
    ∃ t u : State, step s = .next t ∧ statusWord t = 1 ∧ step t = .next u ∧ statusWord u = 0 ∧
      u.out.bytes = chacha20Block s.cKey.bytes s.cNonce.bytes s.cCtr.bytes ∧ u.out.valid = true ∧
      u = { s with
        out := u.out, stateX := u.stateX, stateW := u.stateW, result := .ok, cmdErr := false, turns := rest }

/-- R112, R140: two operations whose input registers hold the same bytes write the same OUT. -/
def Obligations.BlocksAreDeterministic : Prop :=
  ∀ s1 s2 : State,
    (s1.phase = .salsaRun → s2.phase = .salsaRun →
      s1.sKey.bytes = s2.sKey.bytes → s1.sIv.bytes = s2.sIv.bytes → s1.sCtr.bytes = s2.sCtr.bytes →
      s1.sConst.bytes = s2.sConst.bytes →
      ∃ t1 t2 : State, exec .salsa20Block s1 = .next t1 ∧ exec .salsa20Block s2 = .next t2 ∧ t1.out = t2.out) ∧
    (s1.phase = .chachaRun → s2.phase = .chachaRun →
      s1.cKey.bytes = s2.cKey.bytes → s1.cNonce.bytes = s2.cNonce.bytes → s1.cCtr.bytes = s2.cCtr.bytes →
      ∃ t1 t2 : State, exec .chacha20Block s1 = .next t1 ∧ exec .chacha20Block s2 = .next t2 ∧ t1.out = t2.out)

/-! ## AESKDF_TRANSFORM (42_aeskdf.md) -/

/-- R11: the failure draws: always ok when the engine cannot fail; otherwise as the draw says. That a draw is the next of
a list is the model's choice (log entry 6). -/
def Obligations.DrawsAnswer : Prop :=
  (∀ s : State, drawAnswer false s = true) ∧
  ∀ (canFail d : Bool) (s : State) (ds : List Bool), s.draws = d :: ds →
    drawAnswer canFail s = (d || !canFail) ∧ drawTaken s = { s with draws := ds }

/-- R162: the round function encrypts each half of the key under the seed, independently. -/
def Obligations.RoundFunctionHalves : Prop :=
  ∀ (enc : WordBytes 8 → WordBytes 4 → WordBytes 4) (seed k : WordBytes 8),
    lowHalf (kdfF enc seed k) = enc seed (lowHalf k) ∧ highHalf (kdfF enc seed k) = enc seed (highHalf k) ∧
    joinHalves (lowHalf k) (highHalf k) = k

/-- R172, corner cases: a key with equal halves keeps equal halves after every round. -/
def Obligations.EqualHalvesStayEqual : Prop :=
  ∀ (enc : WordBytes 8 → WordBytes 4 → WordBytes 4) (seed k : WordBytes 8) (n : Nat),
    lowHalf k = highHalf k → lowHalf (kdfFn enc seed n k) = highHalf (kdfFn enc seed n k)

/-- R163: the step of KDF_INIT: the AES context and I = 0, or ENGINE_INIT_FAILED (the model's draws and AES context: log
entries 6, 11). -/
def Obligations.KdfConstruction : Prop :=
  ∀ s : State, s.phase = .kdfInit →
    ∃ t : State, exec .aeskdfTransform s = .next t ∧
      if drawAnswer Config.aesEngineCanFail s then
        t = { drawTaken s with aesContext := some s.kdfSeed.bytes, roundIndex := 0, phase := .kdfCheck }
      else
        (∀ j, t.kdfKey.isWritten j = false) ∧
        t = { drawTaken s with
          kdfKey := t.kdfKey, fresh := t.fresh, aesContext := none, result := .engineInitFailed, phase := .idle }

/-- R165, R166: the step of KDF_CHECK: the end (which discards the AES context and keeps I: log entries 11, 26), a progress
request, or on to the round. -/
def Obligations.KdfRoundCheck : Prop :=
  ∀ s : State, s.phase = .kdfCheck →
    (s.roundIndex = roundCount s →
      exec .aeskdfTransform s = .next { s with result := .ok, phase := .idle, aesContext := none }) ∧
    (s.roundIndex ≠ roundCount s → s.progressEn = true → s.roundIndex.toNat % 100000 = 0 →
      exec .aeskdfTransform s = .next { s with progIndex := s.roundIndex, phase := .kdfWait }) ∧
    (s.roundIndex ≠ roundCount s → (s.progressEn = false ∨ s.roundIndex.toNat % 100000 ≠ 0) →
      exec .aeskdfTransform s = .next { s with phase := .kdfRound })

/-- R169, R170: the step of KDF_ROUND: one round, or ENGINE_STEP_FAILED (the model's draws and AES context: log entries 6,
11). -/
def Obligations.KdfRoundStep : Prop :=
  ∀ s : State, s.phase = .kdfRound →
    ∃ t : State, exec .aeskdfTransform s = .next t ∧
      if drawAnswer Config.aesEngineCanFail s then
        t.kdfKey.bytes = joinHalves (Config.aes256Enc s.kdfSeed.bytes (lowHalf s.kdfKey.bytes))
          (Config.aes256Enc s.kdfSeed.bytes (highHalf s.kdfKey.bytes)) ∧
        t.kdfKey.valid = true ∧
        t = { drawTaken s with kdfKey := t.kdfKey, roundIndex := s.roundIndex + 1, phase := .kdfCheck }
      else
        (∀ j, t.kdfKey.isWritten j = false) ∧
        t = { drawTaken s with
          kdfKey := t.kdfKey, fresh := t.fresh, aesContext := none, result := .engineStepFailed, phase := .idle }

/-- R240, R171, R232, R233: an engine error, for an engine that can fail: RESULT the code, PHASE IDLE, every word of
KDF_KEY unreadable (HF6), and nothing else of the block changes but the AES context (log entries 6, 11). -/
def Obligations.EngineErrorEntry : Prop :=
  ∀ (enc : WordBytes 8 → WordBytes 4 → WordBytes 4) (s : State) (ds : List Bool),
    s.phase = .kdfInit ∨ s.phase = .kdfRound → s.draws = false :: ds → s.faulted = none → s.cmdErr = false →
    ∃ t : State, kdfStep enc true s = t ∧
      statusWord t = (if s.phase = .kdfInit then 0x00000004 else 0x00000008) ∧
      t = { s with
        kdfKey := t.kdfKey, result := t.result, phase := .idle, aesContext := none, draws := ds, fresh := t.fresh } ∧
      ∀ j : Fin 8, hostTurn (.read 32 (BitVec.ofNat 32 (0x060 + 4 * j.val))) t =
        .next { t with faulted := some .hf6 }

/-- R166, R280: in KDF_WAIT an ENGINE turn does nothing, and a step that leaves KDF_WAIT is the reset event or a host
write of PROG_RESP; with no turn left the block hangs (the model's named stop, log entry 2). That an ENGINE
turn passes also where FAULTED is set is the model's (log entries 1, 4). -/
def Obligations.OnlyTheHostEndsAWait : Prop :=
  ∀ s : State, s.phase = .kdfWait →
    (∀ rest, s.turns = .engine :: rest → step s = .next s.pastTurn) ∧
    (s.turns = [] → step s = .fault .hang) ∧
    ∀ t : State, step s = .next t → t.phase ≠ .kdfWait →
      s.turns.head? = some .reset ∨
      (∃ v, s.turns.head? = some (.access (.write 32 0x008 v))) ∨
      (s.turns.head? = some .program ∧ ∃ val, s.host.program[s.host.line]? = some (.wr 0x008 val))

/-- R174, R175, R207: with PROGRESS_EN = 0, every draw ok and the host leaving the block alone, the operation takes
exactly 2N + 2 ENGINE steps and leaves F^N(seed, K0) in KDF_KEY (the model's turns, draws, AES context and
last I: log entries 1, 2, 6, 11, 26). That the ENGINE runs the loop also where FAULTED is set is the model's (log entry
4). -/
def Obligations.RunWithoutRequests : Prop :=
  ∀ (s : State) (ds : List Bool), s.phase = .kdfInit → s.progressEn = false → s.turns = [] →
    s.draws = List.replicate ((roundCount s).toNat + 1) true ++ ds →
    (∀ k, k < 2 * (roundCount s).toNat + 2 →
      ∃ u : State, Host.Core.run Sys2Proof.core k s = .next u ∧ u.phase ≠ .idle) ∧
    ∃ t : State, Host.Core.run Sys2Proof.core (2 * (roundCount s).toNat + 2) s = .next t ∧
      t.kdfKey.bytes = kdfFn Config.aes256Enc s.kdfSeed.bytes (roundCount s).toNat s.kdfKey.bytes ∧
      t = { s with
        kdfKey := t.kdfKey, roundIndex := roundCount s, result := .ok, phase := .idle, aesContext := none, draws := ds }

/-- R167, R175, R177: with PROGRESS_EN = 1, every draw ok and a host that answers "continue" exactly at the indices
0, 100000, 200000, … below N, no access faults and the operation leaves F^N(seed, K0) in KDF_KEY and the last of those
indices in PROG_INDEX (the model's turns, draws, AES context and last I: log entries 1, 6, 11, 26). -/
def Obligations.RunAnsweringEveryRequest : Prop :=
  ∀ (s : State) (rest : List Turn) (ds : List Bool), s.phase = .kdfInit → s.progressEn = true → s.faulted = none →
    s.turns = .engine :: (roundTurns 0 (roundCount s).toNat ++ .engine :: rest) →
    s.draws = List.replicate ((roundCount s).toNat + 1) true ++ ds →
    ∃ t : State,
      Host.Core.run Sys2Proof.core ((roundTurns 0 (roundCount s).toNat).length + 2) s = .next t ∧
      t.kdfKey.bytes = kdfFn Config.aes256Enc s.kdfSeed.bytes (roundCount s).toNat s.kdfKey.bytes ∧
      t = { s with
        kdfKey := t.kdfKey, roundIndex := roundCount s, result := .ok, phase := .idle, aesContext := none,
        draws := ds, turns := rest,
        progIndex := if (roundCount s).toNat = 0 then s.progIndex
          else BitVec.ofNat 64 (100000 * (((roundCount s).toNat - 1) / 100000)) }

/-- R168: a host that continues at every request below `m` and stops at the request for `m` leaves F^m(seed, K0) in
KDF_KEY, RESULT OK, and `m` in PROG_INDEX (the model's turns, draws, AES context and last I: log entries 1, 6, 11, 26). -/
def Obligations.StopLeavesTheKeyOfExactlyThoseRounds : Prop :=
  ∀ (s : State) (m : Nat) (v : Word) (rest : List Turn) (ds : List Bool),
    s.phase = .kdfInit → s.progressEn = true → s.faulted = none → v ≠ 0 →
    m % 100000 = 0 → m < (roundCount s).toNat →
    s.turns = .engine :: (roundTurns 0 m ++ .engine :: .access (.write 32 0x008 v) :: rest) →
    s.draws = List.replicate (m + 1) true ++ ds →
    ∃ t : State,
      Host.Core.run Sys2Proof.core ((roundTurns 0 m).length + 3) s = .next t ∧
      t.kdfKey.bytes = kdfFn Config.aes256Enc s.kdfSeed.bytes m s.kdfKey.bytes ∧
      t = { s with
        kdfKey := t.kdfKey, roundIndex := BitVec.ofNat 64 m, result := .ok, phase := .idle, aesContext := none,
        draws := ds, turns := rest, progIndex := BitVec.ofNat 64 m }

/-! ## Whole-machine rules -/

/-- R65, R75, R276: while BUSY no step but the reset event changes an operand register other than KDF_KEY, or PROGRESS_EN.
KDF_KEY is an operand register too (R82), but AESKDF_TRANSFORM's own steps rewrite it (R169) or mark it unwritten (R171),
and the statement says nothing of it. -/
def Obligations.OperandsAreFixedWhileBusy : Prop :=
  ∀ s t : State, s.phase ≠ .idle → step s = .next t → s.turns.head? ≠ some .reset →
    t.sKey = s.sKey ∧ t.sIv = s.sIv ∧ t.sCtr = s.sCtr ∧ t.sConst = s.sConst ∧
    t.cKey = s.cKey ∧ t.cNonce = s.cNonce ∧ t.cCtr = s.cCtr ∧
    t.kdfSeed = s.kdfSeed ∧ t.kdfRounds = s.kdfRounds ∧ t.progressEn = s.progressEn

/-- R47: OUT changes only by the completion step of a block operation, or by the reset event. -/
def Obligations.OutChangesOnlyByCompletion : Prop :=
  ∀ s t : State, step s = .next t → t.out ≠ s.out →
    s.turns.head? = some .reset ∨ ((s.phase = .salsaRun ∨ s.phase = .chachaRun) ∧ t.phase = .idle ∧ t.out.valid = true)

/-- R35, R166: PROG_INDEX changes only when a progress request is raised, to the round index, or by the reset event. -/
def Obligations.ProgIndexChangesOnlyByRequest : Prop :=
  ∀ s t : State, step s = .next t → t.progIndex ≠ s.progIndex →
    s.turns.head? = some .reset ∨
    (s.phase = .kdfCheck ∧ t.phase = .kdfWait ∧ s.progressEn = true ∧ t.progIndex = s.roundIndex ∧
      s.roundIndex.toNat % 100000 = 0)

/-- R88, R89: a `wr` line is the host write of its value and an `rd` line the host read into its variable, after which
the host is at the next line; every other line leaves the block untouched (one line a turn: log entry 14; variables of 64
bits, of which `wr` takes the low word: log entry 27; host-local lines go on where FAULTED is set: log entry 4). -/
def Obligations.HostLines : Prop :=
  ∀ (s t : State) (rest : List Turn), s.turns = .program :: rest → s.host.halted = false →
    (∀ off val v, s.host.program[s.host.line]? = some (.wr off val) →
      (val = .const v ∨ ∃ x u, val = .var x ∧ lookupVar x s.host.vars = some u ∧ v = u.setWidth 32) →
      hostTurn (.write 32 off v) s.pastTurn = .next t → t.faulted = none →
      step s = .next { t with host := { t.host with line := s.host.line + 1 } }) ∧
    (∀ off x, s.host.program[s.host.line]? = some (.rd x off) →
      hostTurn (.read 32 off) s.pastTurn = .next t → t.faulted = none →
      ∃ u : State, step s = .next u ∧ u = { t with host := u.host } ∧ u.host.line = s.host.line + 1 ∧
        lookupVar x u.host.vars = some (t.readData.setWidth 64)) ∧
    (∀ line, s.host.program[s.host.line]? = some line →
      (∀ off v, line ≠ .wr off v) → (∀ x off, line ≠ .rd x off) → step s = .next t →
      t = { s.pastTurn with host := t.host })

/-- R90: what each pseudo-instruction stands for; `wrbuf` gives one `wr` line for each word of its bytes. The model's
choices: offsets wrap modulo 2^32 (log entry 20), labels and indexed variables are numbers (log entries 14, 24), and `v` of
`wr64` is a number (log entry 23). -/
def Obligations.PseudoInstructionsExpand : Prop :=
  (∀ (off : Word) (n : Nat) (h : WordBytes n),
    wrbuf off h.toList = List.ofFn fun j : Fin n => .wr (off + BitVec.ofNat 32 (4 * j.val)) (.const (le32 h j))) ∧
  (∀ (t : Nat) (off : Word) (n : Nat),
    rdbuf t off n = List.ofFn fun j : Fin n => .rd ⟨t, j.val⟩ (off + BitVec.ofNat 32 (4 * j.val))) ∧
  (∀ (off : Word) (v : DWord),
    wr64 off v = [.wr off (.const (v.extractLsb' 0 32)), .wr (off + 4) (.const (v.extractLsb' 32 32))]) ∧
  salsa20Line = .wr 0x000 (.const 0x00000001) ∧
  chacha20Line = .wr 0x000 (.const 0x00000002) ∧
  aeskdfLine = .wr 0x000 (.const 0x00000003) ∧
  continueLine = .wr 0x008 (.const 0x00000000) ∧
  stopLine = .wr 0x008 (.const 0x00000001) ∧
  (∀ (t : HostVar) (l : Nat),
    waitidle t l = [.label l, .rd t 0x004, .ifGoto (.eq (.bit t 0) (.const 1)) l]) ∧
  (∀ (t : HostVar) (l : Nat),
    waitevent t l =
      [.label l, .rd t 0x004, .ifGoto (.both (.eq (.bit t 0) (.const 1)) (.eq (.bit t 1) (.const 0))) l])

/-- R209, R273: the block after reset is waiting for a command: with no turn left its step changes nothing (the model's
choice, log entry 2), and a host program that executes `halt` there has ended its run. -/
def Obligations.HaltEndsARun : Prop :=
  (∀ s : State, s.phase = .idle → s.turns = [] → step s = .next s) ∧
  ∀ (s : State) (rest : List Turn), s.phase = .idle → s.faulted = none → s.host.halted = false →
    s.turns = .program :: rest → s.host.program[s.host.line]? = some .halt →
    ∃ t : State, step s = .next t ∧ t.EndOfRun ∧ t = { s with turns := rest, host := { s.host with halted := true } }

/-- The invariant of the block holds after reset. -/
def Obligations.ResetMeetsTheInvariant : Prop := State.reset.Inv

/-- R27, R50, R164, R165, R204: every step of the system, whichever agent takes it, keeps the invariant. -/
def Obligations.EveryStepKeepsTheInvariant : Prop :=
  ∀ s t : State, s.Inv → step s = .next t → t.Inv
end

