-- ==== Sys2Proof/Laws/Bytes.lean ====
section
/-! SUPPORT. Byte order: words and bytes convert back and forth (R14, R63), and a word write touches its own four bytes. -/

namespace Sys2Proof

theorem byteOf_wordOf (b0 b1 b2 b3 : Byte) :
    byteOf (wordOf b0 b1 b2 b3) 0 = b0 ∧ byteOf (wordOf b0 b1 b2 b3) 1 = b1 ∧
      byteOf (wordOf b0 b1 b2 b3) 2 = b2 ∧ byteOf (wordOf b0 b1 b2 b3) 3 = b3 := by
  unfold byteOf wordOf
  refine ⟨?_, ?_, ?_, ?_⟩ <;> apply BitVec.eq_of_getLsbD_eq <;> intro i hi <;>
    simp only [BitVec.getLsbD_extractLsb', BitVec.getLsbD_append] <;>
    interval_cases i <;> simp

theorem wordOf_byteOf (v : Word) : wordOf (byteOf v 0) (byteOf v 1) (byteOf v 2) (byteOf v 3) = v := by
  unfold byteOf wordOf
  apply BitVec.eq_of_getLsbD_eq
  intro i hi
  simp only [BitVec.getLsbD_extractLsb', BitVec.getLsbD_append]
  interval_cases i <;> simp

/-- The byte of word `k / 4` that stands at byte `k`. -/
theorem word_byte_index (j t : Nat) (ht : t < 4) : (4 * j + t) / 4 = j ∧ (4 * j + t) % 4 = t := by omega

/-- R109, R63: word `j` of a serialised array is its word `j`. -/
@[simp] theorem le32_le32Bytes {n : Nat} (z : Vector Word n) (j : Fin n) : le32 (le32Bytes z) j = z[j] := by
  have h0 := word_byte_index j.val 0 (by omega)
  have h1 := word_byte_index j.val 1 (by omega)
  have h2 := word_byte_index j.val 2 (by omega)
  have h3 := word_byte_index j.val 3 (by omega)
  simp only [Nat.add_zero] at h0
  simp only [le32, le32Bytes, Vector.getElem_ofFn, h0, h1, h2, h3]
  exact wordOf_byteOf _

/-- R203: the word written is the word read. -/
@[simp] theorem le32_putWord_same {n : Nat} (b : WordBytes n) (j : Fin n) (v : Word) : le32 (putWord b j v) j = v := by
  have h0 := word_byte_index j.val 0 (by omega)
  have h1 := word_byte_index j.val 1 (by omega)
  have h2 := word_byte_index j.val 2 (by omega)
  have h3 := word_byte_index j.val 3 (by omega)
  simp only [Nat.add_zero] at h0
  simp only [le32, putWord, Vector.getElem_ofFn, h0, h1, h2, h3, if_true]
  exact wordOf_byteOf _

/-- R203: a write to one word leaves the other words unchanged. -/
theorem le32_putWord_other {n : Nat} (b : WordBytes n) (j k : Fin n) (v : Word) (h : k ≠ j) :
    le32 (putWord b j v) k = le32 b k := by
  have h0 := word_byte_index k.val 0 (by omega)
  have h1 := word_byte_index k.val 1 (by omega)
  have h2 := word_byte_index k.val 2 (by omega)
  have h3 := word_byte_index k.val 3 (by omega)
  simp only [Nat.add_zero] at h0
  have hne : k.val ≠ j.val := fun e => h (Fin.ext e)
  simp only [le32, putWord, Vector.getElem_ofFn, h0, h1, h2, h3, hne, if_false]

/-- Two buffers with the same words are the same bytes. -/
theorem wordBytes_ext {n : Nat} (a b : WordBytes n) (h : ∀ j : Fin n, le32 a j = le32 b j) : a = b := by
  apply Vector.ext
  intro k hk
  have hj : k / 4 < n := by omega
  have hw := h ⟨k / 4, hj⟩
  have ha := byteOf_wordOf a[4 * (k / 4)] a[4 * (k / 4) + 1] a[4 * (k / 4) + 2] a[4 * (k / 4) + 3]
  have hb := byteOf_wordOf b[4 * (k / 4)] b[4 * (k / 4) + 1] b[4 * (k / 4) + 2] b[4 * (k / 4) + 3]
  simp only [le32] at hw
  rw [hw] at ha
  obtain ⟨a0, a1, a2, a3⟩ := ha
  obtain ⟨b0, b1, b2, b3⟩ := hb
  have hk4 : k % 4 = 0 ∨ k % 4 = 1 ∨ k % 4 = 2 ∨ k % 4 = 3 := by omega
  rcases hk4 with e | e | e | e
  · have : k = 4 * (k / 4) := by omega
    simpa [this.symm] using a0.symm.trans b0
  · have : k = 4 * (k / 4) + 1 := by omega
    simpa [this.symm] using a1.symm.trans b1
  · have : k = 4 * (k / 4) + 2 := by omega
    simpa [this.symm] using a2.symm.trans b2
  · have : k = 4 * (k / 4) + 3 := by omega
    simpa [this.symm] using a3.symm.trans b3

end Sys2Proof

namespace Sys2Proof.Machine

@[simp] theorem lowHalf_joinHalves (a b : WordBytes 4) : lowHalf (joinHalves a b) = a := by
  apply Vector.ext
  intro k hk
  simp [lowHalf, joinHalves]

@[simp] theorem highHalf_joinHalves (a b : WordBytes 4) : highHalf (joinHalves a b) = b := by
  apply Vector.ext
  intro k hk
  simp [highHalf, joinHalves]

@[simp] theorem joinHalves_low_high (k : WordBytes 8) : joinHalves (lowHalf k) (highHalf k) = k := by
  apply Vector.ext
  intro i hi
  simp only [lowHalf, highHalf, joinHalves, Vector.getElem_ofFn]
  split
  · rfl
  · next h =>
    have e : 16 + (i - 16) = i := by omega
    simp [e]

end Sys2Proof.Machine
end

