-- ==== Sys2Proof/Laws/Ciphers.lean ====
section
/-! SUPPORT. The quarter-rounds' building blocks: one word of the array after one line of them (R103, R133). -/

namespace Sys2Proof.Machine

/-- Reading the 16-word array after a write: the word written, or the word that was there. -/
theorem words_set (w : Words16) (i k : Fin 16) (v : Word) : (w.set i v)[k] = if i = k then v else w[k] := by
  simp only [Fin.getElem_fin, Vector.getElem_set, Fin.ext_iff]

/-- R133, one half-line pair: what each word becomes. -/
theorem chachaStep_get (w : Words16) (p q r k : Fin 16) (n : Nat) (h : p ≠ r) :
    (chachaStep w p q r n)[k] =
      if k = r then rotl32 (w[r] ^^^ (w[p] + w[q])) n else if k = p then w[p] + w[q] else w[k] := by
  simp only [chachaStep, words_set]
  by_cases hr : k = r
  · subst hr; simp [h]
  · have hr' : r ≠ k := fun e => hr e.symm
    simp only [hr, hr', if_false]
    by_cases hp : k = p
    · simp [hp]
    · have hp' : p ≠ k := fun e => hp e.symm
      simp [hp, hp']

/-- A half-line pair of `QR_C` leaves every word but its two targets. -/
theorem chachaStep_frame (w : Words16) (p q r k : Fin 16) (n : Nat) (hp : k ≠ p) (hr : k ≠ r) :
    (chachaStep w p q r n)[k] = w[k] := by
  simp only [chachaStep, words_set, hp.symm, hr.symm, if_false]

/-- A half-line pair of `QR_C` reads only the words it names: two arrays that agree on a set of words holding them agree
on it afterwards. -/
theorem chachaStep_congr (w w' : Words16) (l : List (Fin 16)) (p q r : Fin 16) (n : Nat)
    (hp : p ∈ l) (hq : q ∈ l) (hr : r ∈ l) (h : ∀ k ∈ l, w[k] = w'[k]) :
    ∀ k ∈ l, (chachaStep w p q r n)[k] = (chachaStep w' p q r n)[k] := by
  intro k hk
  simp only [chachaStep, words_set, h k hk, h p hp, h q hq, h r hr]

end Sys2Proof.Machine
end

