-- ==== Sys2Proof/Laws/Operands.lean ====
section
/-! SUPPORT. The buffer registers: what a word write does (R203), what `valid` says (R37), and that a register is one home
of its words. -/

namespace Sys2Proof.Machine

theorem Buf.valid_iff {n : Nat} (b : Buf n) : b.valid = true ↔ ∀ j : Fin n, b.isWritten j = true := by
  unfold Buf.valid Buf.isWritten
  rw [List.all_eq_true]
  constructor
  · intro h j
    exact h _ (by simp)
  · intro h x hx
    obtain ⟨i, hi, rfl⟩ := List.getElem_of_mem hx
    have := h ⟨i, by simpa using hi⟩
    simpa using this

@[simp] theorem Buf.word_setWord_same {n : Nat} (b : Buf n) (j : Fin n) (v : Word) : (b.setWord j v).word j = v := by
  simp [Buf.word, Buf.setWord]

theorem Buf.word_setWord_other {n : Nat} (b : Buf n) (j k : Fin n) (v : Word) (h : k ≠ j) :
    (b.setWord j v).word k = b.word k := by
  simp [Buf.word, Buf.setWord, le32_putWord_other _ _ _ _ h]

@[simp] theorem Buf.isWritten_setWord_same {n : Nat} (b : Buf n) (j : Fin n) (v : Word) :
    (b.setWord j v).isWritten j = true := by
  simp [Buf.isWritten, Buf.setWord]

theorem Buf.isWritten_setWord_other {n : Nat} (b : Buf n) (j k : Fin n) (v : Word) (h : k ≠ j) :
    (b.setWord j v).isWritten k = b.isWritten k := by
  have : j.val ≠ k.val := fun e => h (Fin.ext e.symm)
  simp [Buf.isWritten, Buf.setWord, this]

@[simp] theorem Buf.bytes_ofBytes {n : Nat} (b : WordBytes n) : (Buf.ofBytes b).bytes = b := rfl

@[simp] theorem Buf.isWritten_ofBytes {n : Nat} (b : WordBytes n) (j : Fin n) : (Buf.ofBytes b).isWritten j = true := by
  simp [Buf.isWritten, Buf.ofBytes]

@[simp] theorem Buf.valid_ofBytes {n : Nat} (b : WordBytes n) : (Buf.ofBytes b).valid = true := by
  rw [Buf.valid_iff]; simp

@[simp] theorem Buf.isWritten_unwritten {n : Nat} (j : Fin n) : (Buf.unwritten n).isWritten j = false := by
  simp [Buf.isWritten, Buf.unwritten]

@[simp] theorem buf_setBuf_same (s : State) (b : BufName) (v : Buf b.words) : (s.setBuf b v).buf b = v := by
  cases b <;> rfl

theorem buf_setBuf_other (s : State) (b c : BufName) (v : Buf b.words) (h : c ≠ b) :
    (s.setBuf b v).buf c = s.buf c := by
  cases b <;> cases c <;> first | rfl | exact absurd rfl h

/-- The validity of a command's operands reads the operand registers alone. -/
theorem operandsValid_congr (i : Instr) (s t : State) (h : ∀ b ∈ operandBufs i, t.buf b = s.buf b) :
    operandsValid i t = operandsValid i s := by
  unfold operandsValid
  cases i <;> simp_all [operandBufs]

theorem operandsValid_salsa20 (s : State) : operandsValid .salsa20Block s = true ↔
    s.sKey.valid = true ∧ s.sIv.valid = true ∧ s.sCtr.valid = true ∧ s.sConst.valid = true := by
  simp [operandsValid, operandBufs, State.buf]

theorem operandsValid_chacha20 (s : State) : operandsValid .chacha20Block s = true ↔
    s.cKey.valid = true ∧ s.cNonce.valid = true ∧ s.cCtr.valid = true := by
  simp [operandsValid, operandBufs, State.buf]

theorem operandsValid_aeskdf (s : State) : operandsValid .aeskdfTransform s = true ↔
    s.kdfSeed.valid = true ∧ s.kdfKey.valid = true ∧ s.kdfRounds.valid = true := by
  simp [operandsValid, operandBufs, State.buf]

end Sys2Proof.Machine
end

