-- ==== Sys2Proof/Laws/State.lean ====
section
/-! SUPPORT. What each named update of the state does to each field: one lemma per field per update, so that no later
proof unfolds a record update. -/

namespace Sys2Proof.Machine

section
variable (code : HostFault) (s : State)

@[simp] theorem raise_phase : (raise code s).phase = s.phase := rfl
@[simp] theorem raise_roundIndex : (raise code s).roundIndex = s.roundIndex := rfl
@[simp] theorem raise_result : (raise code s).result = s.result := rfl
@[simp] theorem raise_cmdErr : (raise code s).cmdErr = s.cmdErr := rfl
@[simp] theorem raise_progressEn : (raise code s).progressEn = s.progressEn := rfl
@[simp] theorem raise_progIndex : (raise code s).progIndex = s.progIndex := rfl
@[simp] theorem raise_kdfRounds : (raise code s).kdfRounds = s.kdfRounds := rfl
@[simp] theorem raise_kdfSeed : (raise code s).kdfSeed = s.kdfSeed := rfl
@[simp] theorem raise_kdfKey : (raise code s).kdfKey = s.kdfKey := rfl
@[simp] theorem raise_sKey : (raise code s).sKey = s.sKey := rfl
@[simp] theorem raise_sIv : (raise code s).sIv = s.sIv := rfl
@[simp] theorem raise_sCtr : (raise code s).sCtr = s.sCtr := rfl
@[simp] theorem raise_sConst : (raise code s).sConst = s.sConst := rfl
@[simp] theorem raise_cKey : (raise code s).cKey = s.cKey := rfl
@[simp] theorem raise_cNonce : (raise code s).cNonce = s.cNonce := rfl
@[simp] theorem raise_cCtr : (raise code s).cCtr = s.cCtr := rfl
@[simp] theorem raise_out : (raise code s).out = s.out := rfl
@[simp] theorem raise_stateX : (raise code s).stateX = s.stateX := rfl
@[simp] theorem raise_stateW : (raise code s).stateW = s.stateW := rfl
@[simp] theorem raise_aesContext : (raise code s).aesContext = s.aesContext := rfl
@[simp] theorem raise_faulted : (raise code s).faulted = some code := rfl
@[simp] theorem raise_host : (raise code s).host = s.host := rfl
@[simp] theorem raise_readData : (raise code s).readData = s.readData := rfl
@[simp] theorem raise_turns : (raise code s).turns = s.turns := rfl
@[simp] theorem raise_draws : (raise code s).draws = s.draws := rfl
@[simp] theorem raise_fresh : (raise code s).fresh = s.fresh := rfl

end

section
variable (r : Result) (s : State)

@[simp] theorem finish_phase : (finish r s).phase = .idle := rfl
@[simp] theorem finish_roundIndex : (finish r s).roundIndex = s.roundIndex := rfl
@[simp] theorem finish_result : (finish r s).result = r := rfl
@[simp] theorem finish_cmdErr : (finish r s).cmdErr = s.cmdErr := rfl
@[simp] theorem finish_progressEn : (finish r s).progressEn = s.progressEn := rfl
@[simp] theorem finish_progIndex : (finish r s).progIndex = s.progIndex := rfl
@[simp] theorem finish_kdfRounds : (finish r s).kdfRounds = s.kdfRounds := rfl
@[simp] theorem finish_kdfSeed : (finish r s).kdfSeed = s.kdfSeed := rfl
@[simp] theorem finish_kdfKey : (finish r s).kdfKey = s.kdfKey := rfl
@[simp] theorem finish_sKey : (finish r s).sKey = s.sKey := rfl
@[simp] theorem finish_sIv : (finish r s).sIv = s.sIv := rfl
@[simp] theorem finish_sCtr : (finish r s).sCtr = s.sCtr := rfl
@[simp] theorem finish_sConst : (finish r s).sConst = s.sConst := rfl
@[simp] theorem finish_cKey : (finish r s).cKey = s.cKey := rfl
@[simp] theorem finish_cNonce : (finish r s).cNonce = s.cNonce := rfl
@[simp] theorem finish_cCtr : (finish r s).cCtr = s.cCtr := rfl
@[simp] theorem finish_out : (finish r s).out = s.out := rfl
@[simp] theorem finish_stateX : (finish r s).stateX = s.stateX := rfl
@[simp] theorem finish_stateW : (finish r s).stateW = s.stateW := rfl
@[simp] theorem finish_aesContext : (finish r s).aesContext = s.aesContext := rfl
@[simp] theorem finish_faulted : (finish r s).faulted = s.faulted := rfl
@[simp] theorem finish_host : (finish r s).host = s.host := rfl
@[simp] theorem finish_readData : (finish r s).readData = s.readData := rfl
@[simp] theorem finish_turns : (finish r s).turns = s.turns := rfl
@[simp] theorem finish_draws : (finish r s).draws = s.draws := rfl
@[simp] theorem finish_fresh : (finish r s).fresh = s.fresh := rfl

end

section
variable (r : Result) (s : State)

@[simp] theorem finishKdf_phase : (finishKdf r s).phase = .idle := rfl
@[simp] theorem finishKdf_roundIndex : (finishKdf r s).roundIndex = s.roundIndex := rfl
@[simp] theorem finishKdf_result : (finishKdf r s).result = r := rfl
@[simp] theorem finishKdf_cmdErr : (finishKdf r s).cmdErr = s.cmdErr := rfl
@[simp] theorem finishKdf_progressEn : (finishKdf r s).progressEn = s.progressEn := rfl
@[simp] theorem finishKdf_progIndex : (finishKdf r s).progIndex = s.progIndex := rfl
@[simp] theorem finishKdf_kdfRounds : (finishKdf r s).kdfRounds = s.kdfRounds := rfl
@[simp] theorem finishKdf_kdfSeed : (finishKdf r s).kdfSeed = s.kdfSeed := rfl
@[simp] theorem finishKdf_kdfKey : (finishKdf r s).kdfKey = s.kdfKey := rfl
@[simp] theorem finishKdf_sKey : (finishKdf r s).sKey = s.sKey := rfl
@[simp] theorem finishKdf_sIv : (finishKdf r s).sIv = s.sIv := rfl
@[simp] theorem finishKdf_sCtr : (finishKdf r s).sCtr = s.sCtr := rfl
@[simp] theorem finishKdf_sConst : (finishKdf r s).sConst = s.sConst := rfl
@[simp] theorem finishKdf_cKey : (finishKdf r s).cKey = s.cKey := rfl
@[simp] theorem finishKdf_cNonce : (finishKdf r s).cNonce = s.cNonce := rfl
@[simp] theorem finishKdf_cCtr : (finishKdf r s).cCtr = s.cCtr := rfl
@[simp] theorem finishKdf_out : (finishKdf r s).out = s.out := rfl
@[simp] theorem finishKdf_stateX : (finishKdf r s).stateX = s.stateX := rfl
@[simp] theorem finishKdf_stateW : (finishKdf r s).stateW = s.stateW := rfl
@[simp] theorem finishKdf_aesContext : (finishKdf r s).aesContext = none := rfl
@[simp] theorem finishKdf_faulted : (finishKdf r s).faulted = s.faulted := rfl
@[simp] theorem finishKdf_host : (finishKdf r s).host = s.host := rfl
@[simp] theorem finishKdf_readData : (finishKdf r s).readData = s.readData := rfl
@[simp] theorem finishKdf_turns : (finishKdf r s).turns = s.turns := rfl
@[simp] theorem finishKdf_draws : (finishKdf r s).draws = s.draws := rfl
@[simp] theorem finishKdf_fresh : (finishKdf r s).fresh = s.fresh := rfl

end

section
variable (s : State)

@[simp] theorem loseKdfKey_phase : (loseKdfKey s).phase = s.phase := rfl
@[simp] theorem loseKdfKey_roundIndex : (loseKdfKey s).roundIndex = s.roundIndex := rfl
@[simp] theorem loseKdfKey_result : (loseKdfKey s).result = s.result := rfl
@[simp] theorem loseKdfKey_cmdErr : (loseKdfKey s).cmdErr = s.cmdErr := rfl
@[simp] theorem loseKdfKey_progressEn : (loseKdfKey s).progressEn = s.progressEn := rfl
@[simp] theorem loseKdfKey_progIndex : (loseKdfKey s).progIndex = s.progIndex := rfl
@[simp] theorem loseKdfKey_kdfRounds : (loseKdfKey s).kdfRounds = s.kdfRounds := rfl
@[simp] theorem loseKdfKey_kdfSeed : (loseKdfKey s).kdfSeed = s.kdfSeed := rfl
@[simp] theorem loseKdfKey_kdfKey : (loseKdfKey s).kdfKey = ⟨Config.freeKey s.fresh, Vector.replicate 8 false⟩ := rfl
@[simp] theorem loseKdfKey_sKey : (loseKdfKey s).sKey = s.sKey := rfl
@[simp] theorem loseKdfKey_sIv : (loseKdfKey s).sIv = s.sIv := rfl
@[simp] theorem loseKdfKey_sCtr : (loseKdfKey s).sCtr = s.sCtr := rfl
@[simp] theorem loseKdfKey_sConst : (loseKdfKey s).sConst = s.sConst := rfl
@[simp] theorem loseKdfKey_cKey : (loseKdfKey s).cKey = s.cKey := rfl
@[simp] theorem loseKdfKey_cNonce : (loseKdfKey s).cNonce = s.cNonce := rfl
@[simp] theorem loseKdfKey_cCtr : (loseKdfKey s).cCtr = s.cCtr := rfl
@[simp] theorem loseKdfKey_out : (loseKdfKey s).out = s.out := rfl
@[simp] theorem loseKdfKey_stateX : (loseKdfKey s).stateX = s.stateX := rfl
@[simp] theorem loseKdfKey_stateW : (loseKdfKey s).stateW = s.stateW := rfl
@[simp] theorem loseKdfKey_aesContext : (loseKdfKey s).aesContext = s.aesContext := rfl
@[simp] theorem loseKdfKey_faulted : (loseKdfKey s).faulted = s.faulted := rfl
@[simp] theorem loseKdfKey_host : (loseKdfKey s).host = s.host := rfl
@[simp] theorem loseKdfKey_readData : (loseKdfKey s).readData = s.readData := rfl
@[simp] theorem loseKdfKey_turns : (loseKdfKey s).turns = s.turns := rfl
@[simp] theorem loseKdfKey_draws : (loseKdfKey s).draws = s.draws := rfl
@[simp] theorem loseKdfKey_fresh : (loseKdfKey s).fresh = s.fresh + 1 := rfl

end

section
variable (r : Result) (s : State)

@[simp] theorem engineError_phase : (engineError r s).phase = .idle := rfl
@[simp] theorem engineError_roundIndex : (engineError r s).roundIndex = s.roundIndex := rfl
@[simp] theorem engineError_result : (engineError r s).result = r := rfl
@[simp] theorem engineError_cmdErr : (engineError r s).cmdErr = s.cmdErr := rfl
@[simp] theorem engineError_progressEn : (engineError r s).progressEn = s.progressEn := rfl
@[simp] theorem engineError_progIndex : (engineError r s).progIndex = s.progIndex := rfl
@[simp] theorem engineError_kdfRounds : (engineError r s).kdfRounds = s.kdfRounds := rfl
@[simp] theorem engineError_kdfSeed : (engineError r s).kdfSeed = s.kdfSeed := rfl
@[simp] theorem engineError_kdfKey : (engineError r s).kdfKey = ⟨Config.freeKey s.fresh, Vector.replicate 8 false⟩ := rfl
@[simp] theorem engineError_sKey : (engineError r s).sKey = s.sKey := rfl
@[simp] theorem engineError_sIv : (engineError r s).sIv = s.sIv := rfl
@[simp] theorem engineError_sCtr : (engineError r s).sCtr = s.sCtr := rfl
@[simp] theorem engineError_sConst : (engineError r s).sConst = s.sConst := rfl
@[simp] theorem engineError_cKey : (engineError r s).cKey = s.cKey := rfl
@[simp] theorem engineError_cNonce : (engineError r s).cNonce = s.cNonce := rfl
@[simp] theorem engineError_cCtr : (engineError r s).cCtr = s.cCtr := rfl
@[simp] theorem engineError_out : (engineError r s).out = s.out := rfl
@[simp] theorem engineError_stateX : (engineError r s).stateX = s.stateX := rfl
@[simp] theorem engineError_stateW : (engineError r s).stateW = s.stateW := rfl
@[simp] theorem engineError_aesContext : (engineError r s).aesContext = none := rfl
@[simp] theorem engineError_faulted : (engineError r s).faulted = s.faulted := rfl
@[simp] theorem engineError_host : (engineError r s).host = s.host := rfl
@[simp] theorem engineError_readData : (engineError r s).readData = s.readData := rfl
@[simp] theorem engineError_turns : (engineError r s).turns = s.turns := rfl
@[simp] theorem engineError_draws : (engineError r s).draws = s.draws := rfl
@[simp] theorem engineError_fresh : (engineError r s).fresh = s.fresh + 1 := rfl

end

section
variable (s : State)

@[simp] theorem pastTurn_phase : (s.pastTurn).phase = s.phase := rfl
@[simp] theorem pastTurn_roundIndex : (s.pastTurn).roundIndex = s.roundIndex := rfl
@[simp] theorem pastTurn_result : (s.pastTurn).result = s.result := rfl
@[simp] theorem pastTurn_cmdErr : (s.pastTurn).cmdErr = s.cmdErr := rfl
@[simp] theorem pastTurn_progressEn : (s.pastTurn).progressEn = s.progressEn := rfl
@[simp] theorem pastTurn_progIndex : (s.pastTurn).progIndex = s.progIndex := rfl
@[simp] theorem pastTurn_kdfRounds : (s.pastTurn).kdfRounds = s.kdfRounds := rfl
@[simp] theorem pastTurn_kdfSeed : (s.pastTurn).kdfSeed = s.kdfSeed := rfl
@[simp] theorem pastTurn_kdfKey : (s.pastTurn).kdfKey = s.kdfKey := rfl
@[simp] theorem pastTurn_sKey : (s.pastTurn).sKey = s.sKey := rfl
@[simp] theorem pastTurn_sIv : (s.pastTurn).sIv = s.sIv := rfl
@[simp] theorem pastTurn_sCtr : (s.pastTurn).sCtr = s.sCtr := rfl
@[simp] theorem pastTurn_sConst : (s.pastTurn).sConst = s.sConst := rfl
@[simp] theorem pastTurn_cKey : (s.pastTurn).cKey = s.cKey := rfl
@[simp] theorem pastTurn_cNonce : (s.pastTurn).cNonce = s.cNonce := rfl
@[simp] theorem pastTurn_cCtr : (s.pastTurn).cCtr = s.cCtr := rfl
@[simp] theorem pastTurn_out : (s.pastTurn).out = s.out := rfl
@[simp] theorem pastTurn_stateX : (s.pastTurn).stateX = s.stateX := rfl
@[simp] theorem pastTurn_stateW : (s.pastTurn).stateW = s.stateW := rfl
@[simp] theorem pastTurn_aesContext : (s.pastTurn).aesContext = s.aesContext := rfl
@[simp] theorem pastTurn_faulted : (s.pastTurn).faulted = s.faulted := rfl
@[simp] theorem pastTurn_host : (s.pastTurn).host = s.host := rfl
@[simp] theorem pastTurn_readData : (s.pastTurn).readData = s.readData := rfl
@[simp] theorem pastTurn_turns : (s.pastTurn).turns = s.turns.tail := rfl
@[simp] theorem pastTurn_draws : (s.pastTurn).draws = s.draws := rfl
@[simp] theorem pastTurn_fresh : (s.pastTurn).fresh = s.fresh := rfl

end

section
variable (s : State)

@[simp] theorem raiseRequest_phase : (raiseRequest s).phase = .kdfWait := rfl
@[simp] theorem raiseRequest_roundIndex : (raiseRequest s).roundIndex = s.roundIndex := rfl
@[simp] theorem raiseRequest_result : (raiseRequest s).result = s.result := rfl
@[simp] theorem raiseRequest_cmdErr : (raiseRequest s).cmdErr = s.cmdErr := rfl
@[simp] theorem raiseRequest_progressEn : (raiseRequest s).progressEn = s.progressEn := rfl
@[simp] theorem raiseRequest_progIndex : (raiseRequest s).progIndex = s.roundIndex := rfl
@[simp] theorem raiseRequest_kdfRounds : (raiseRequest s).kdfRounds = s.kdfRounds := rfl
@[simp] theorem raiseRequest_kdfSeed : (raiseRequest s).kdfSeed = s.kdfSeed := rfl
@[simp] theorem raiseRequest_kdfKey : (raiseRequest s).kdfKey = s.kdfKey := rfl
@[simp] theorem raiseRequest_sKey : (raiseRequest s).sKey = s.sKey := rfl
@[simp] theorem raiseRequest_sIv : (raiseRequest s).sIv = s.sIv := rfl
@[simp] theorem raiseRequest_sCtr : (raiseRequest s).sCtr = s.sCtr := rfl
@[simp] theorem raiseRequest_sConst : (raiseRequest s).sConst = s.sConst := rfl
@[simp] theorem raiseRequest_cKey : (raiseRequest s).cKey = s.cKey := rfl
@[simp] theorem raiseRequest_cNonce : (raiseRequest s).cNonce = s.cNonce := rfl
@[simp] theorem raiseRequest_cCtr : (raiseRequest s).cCtr = s.cCtr := rfl
@[simp] theorem raiseRequest_out : (raiseRequest s).out = s.out := rfl
@[simp] theorem raiseRequest_stateX : (raiseRequest s).stateX = s.stateX := rfl
@[simp] theorem raiseRequest_stateW : (raiseRequest s).stateW = s.stateW := rfl
@[simp] theorem raiseRequest_aesContext : (raiseRequest s).aesContext = s.aesContext := rfl
@[simp] theorem raiseRequest_faulted : (raiseRequest s).faulted = s.faulted := rfl
@[simp] theorem raiseRequest_host : (raiseRequest s).host = s.host := rfl
@[simp] theorem raiseRequest_readData : (raiseRequest s).readData = s.readData := rfl
@[simp] theorem raiseRequest_turns : (raiseRequest s).turns = s.turns := rfl
@[simp] theorem raiseRequest_draws : (raiseRequest s).draws = s.draws := rfl
@[simp] theorem raiseRequest_fresh : (raiseRequest s).fresh = s.fresh := rfl

end

section
variable (h : HostState) (s : State)

@[simp] theorem withHost_phase : (s.withHost h).phase = s.phase := rfl
@[simp] theorem withHost_roundIndex : (s.withHost h).roundIndex = s.roundIndex := rfl
@[simp] theorem withHost_result : (s.withHost h).result = s.result := rfl
@[simp] theorem withHost_cmdErr : (s.withHost h).cmdErr = s.cmdErr := rfl
@[simp] theorem withHost_progressEn : (s.withHost h).progressEn = s.progressEn := rfl
@[simp] theorem withHost_progIndex : (s.withHost h).progIndex = s.progIndex := rfl
@[simp] theorem withHost_kdfRounds : (s.withHost h).kdfRounds = s.kdfRounds := rfl
@[simp] theorem withHost_kdfSeed : (s.withHost h).kdfSeed = s.kdfSeed := rfl
@[simp] theorem withHost_kdfKey : (s.withHost h).kdfKey = s.kdfKey := rfl
@[simp] theorem withHost_sKey : (s.withHost h).sKey = s.sKey := rfl
@[simp] theorem withHost_sIv : (s.withHost h).sIv = s.sIv := rfl
@[simp] theorem withHost_sCtr : (s.withHost h).sCtr = s.sCtr := rfl
@[simp] theorem withHost_sConst : (s.withHost h).sConst = s.sConst := rfl
@[simp] theorem withHost_cKey : (s.withHost h).cKey = s.cKey := rfl
@[simp] theorem withHost_cNonce : (s.withHost h).cNonce = s.cNonce := rfl
@[simp] theorem withHost_cCtr : (s.withHost h).cCtr = s.cCtr := rfl
@[simp] theorem withHost_out : (s.withHost h).out = s.out := rfl
@[simp] theorem withHost_stateX : (s.withHost h).stateX = s.stateX := rfl
@[simp] theorem withHost_stateW : (s.withHost h).stateW = s.stateW := rfl
@[simp] theorem withHost_aesContext : (s.withHost h).aesContext = s.aesContext := rfl
@[simp] theorem withHost_faulted : (s.withHost h).faulted = s.faulted := rfl
@[simp] theorem withHost_host : (s.withHost h).host = h := rfl
@[simp] theorem withHost_readData : (s.withHost h).readData = s.readData := rfl
@[simp] theorem withHost_turns : (s.withHost h).turns = s.turns := rfl
@[simp] theorem withHost_draws : (s.withHost h).draws = s.draws := rfl
@[simp] theorem withHost_fresh : (s.withHost h).fresh = s.fresh := rfl

end

section
variable (s : State)

@[simp] theorem resetEvent_phase : (resetEvent s).phase = State.reset.phase := rfl
@[simp] theorem resetEvent_roundIndex : (resetEvent s).roundIndex = State.reset.roundIndex := rfl
@[simp] theorem resetEvent_result : (resetEvent s).result = State.reset.result := rfl
@[simp] theorem resetEvent_cmdErr : (resetEvent s).cmdErr = State.reset.cmdErr := rfl
@[simp] theorem resetEvent_progressEn : (resetEvent s).progressEn = State.reset.progressEn := rfl
@[simp] theorem resetEvent_progIndex : (resetEvent s).progIndex = State.reset.progIndex := rfl
@[simp] theorem resetEvent_kdfRounds : (resetEvent s).kdfRounds = State.reset.kdfRounds := rfl
@[simp] theorem resetEvent_kdfSeed : (resetEvent s).kdfSeed = State.reset.kdfSeed := rfl
@[simp] theorem resetEvent_kdfKey : (resetEvent s).kdfKey = State.reset.kdfKey := rfl
@[simp] theorem resetEvent_sKey : (resetEvent s).sKey = State.reset.sKey := rfl
@[simp] theorem resetEvent_sIv : (resetEvent s).sIv = State.reset.sIv := rfl
@[simp] theorem resetEvent_sCtr : (resetEvent s).sCtr = State.reset.sCtr := rfl
@[simp] theorem resetEvent_sConst : (resetEvent s).sConst = State.reset.sConst := rfl
@[simp] theorem resetEvent_cKey : (resetEvent s).cKey = State.reset.cKey := rfl
@[simp] theorem resetEvent_cNonce : (resetEvent s).cNonce = State.reset.cNonce := rfl
@[simp] theorem resetEvent_cCtr : (resetEvent s).cCtr = State.reset.cCtr := rfl
@[simp] theorem resetEvent_out : (resetEvent s).out = State.reset.out := rfl
@[simp] theorem resetEvent_stateX : (resetEvent s).stateX = State.reset.stateX := rfl
@[simp] theorem resetEvent_stateW : (resetEvent s).stateW = State.reset.stateW := rfl
@[simp] theorem resetEvent_aesContext : (resetEvent s).aesContext = State.reset.aesContext := rfl
@[simp] theorem resetEvent_faulted : (resetEvent s).faulted = s.faulted := rfl
@[simp] theorem resetEvent_host : (resetEvent s).host = s.host := rfl
@[simp] theorem resetEvent_readData : (resetEvent s).readData = s.readData := rfl
@[simp] theorem resetEvent_turns : (resetEvent s).turns = s.turns := rfl
@[simp] theorem resetEvent_draws : (resetEvent s).draws = s.draws := rfl
@[simp] theorem resetEvent_fresh : (resetEvent s).fresh = s.fresh := rfl

end

section
variable (s : State)

@[simp] theorem drawTaken_phase : (drawTaken s).phase = s.phase := by
  unfold drawTaken; split <;> simp_all
@[simp] theorem drawTaken_roundIndex : (drawTaken s).roundIndex = s.roundIndex := by
  unfold drawTaken; split <;> simp_all
@[simp] theorem drawTaken_result : (drawTaken s).result = s.result := by
  unfold drawTaken; split <;> simp_all
@[simp] theorem drawTaken_cmdErr : (drawTaken s).cmdErr = s.cmdErr := by
  unfold drawTaken; split <;> simp_all
@[simp] theorem drawTaken_progressEn : (drawTaken s).progressEn = s.progressEn := by
  unfold drawTaken; split <;> simp_all
@[simp] theorem drawTaken_progIndex : (drawTaken s).progIndex = s.progIndex := by
  unfold drawTaken; split <;> simp_all
@[simp] theorem drawTaken_kdfRounds : (drawTaken s).kdfRounds = s.kdfRounds := by
  unfold drawTaken; split <;> simp_all
@[simp] theorem drawTaken_kdfSeed : (drawTaken s).kdfSeed = s.kdfSeed := by
  unfold drawTaken; split <;> simp_all
@[simp] theorem drawTaken_kdfKey : (drawTaken s).kdfKey = s.kdfKey := by
  unfold drawTaken; split <;> simp_all
@[simp] theorem drawTaken_sKey : (drawTaken s).sKey = s.sKey := by
  unfold drawTaken; split <;> simp_all
@[simp] theorem drawTaken_sIv : (drawTaken s).sIv = s.sIv := by
  unfold drawTaken; split <;> simp_all
@[simp] theorem drawTaken_sCtr : (drawTaken s).sCtr = s.sCtr := by
  unfold drawTaken; split <;> simp_all
@[simp] theorem drawTaken_sConst : (drawTaken s).sConst = s.sConst := by
  unfold drawTaken; split <;> simp_all
@[simp] theorem drawTaken_cKey : (drawTaken s).cKey = s.cKey := by
  unfold drawTaken; split <;> simp_all
@[simp] theorem drawTaken_cNonce : (drawTaken s).cNonce = s.cNonce := by
  unfold drawTaken; split <;> simp_all
@[simp] theorem drawTaken_cCtr : (drawTaken s).cCtr = s.cCtr := by
  unfold drawTaken; split <;> simp_all
@[simp] theorem drawTaken_out : (drawTaken s).out = s.out := by
  unfold drawTaken; split <;> simp_all
@[simp] theorem drawTaken_stateX : (drawTaken s).stateX = s.stateX := by
  unfold drawTaken; split <;> simp_all
@[simp] theorem drawTaken_stateW : (drawTaken s).stateW = s.stateW := by
  unfold drawTaken; split <;> simp_all
@[simp] theorem drawTaken_aesContext : (drawTaken s).aesContext = s.aesContext := by
  unfold drawTaken; split <;> simp_all
@[simp] theorem drawTaken_faulted : (drawTaken s).faulted = s.faulted := by
  unfold drawTaken; split <;> simp_all
@[simp] theorem drawTaken_host : (drawTaken s).host = s.host := by
  unfold drawTaken; split <;> simp_all
@[simp] theorem drawTaken_readData : (drawTaken s).readData = s.readData := by
  unfold drawTaken; split <;> simp_all
@[simp] theorem drawTaken_turns : (drawTaken s).turns = s.turns := by
  unfold drawTaken; split <;> simp_all
@[simp] theorem drawTaken_draws : (drawTaken s).draws = s.draws.tail := by
  unfold drawTaken; split <;> simp_all

end

section
variable (b : BufName) (v : Buf b.words) (s : State)

@[simp] theorem setBuf_phase : (s.setBuf b v).phase = s.phase := by
  cases b <;> rfl
@[simp] theorem setBuf_roundIndex : (s.setBuf b v).roundIndex = s.roundIndex := by
  cases b <;> rfl
@[simp] theorem setBuf_result : (s.setBuf b v).result = s.result := by
  cases b <;> rfl
@[simp] theorem setBuf_cmdErr : (s.setBuf b v).cmdErr = s.cmdErr := by
  cases b <;> rfl
@[simp] theorem setBuf_progressEn : (s.setBuf b v).progressEn = s.progressEn := by
  cases b <;> rfl
@[simp] theorem setBuf_progIndex : (s.setBuf b v).progIndex = s.progIndex := by
  cases b <;> rfl
@[simp] theorem setBuf_stateX : (s.setBuf b v).stateX = s.stateX := by
  cases b <;> rfl
@[simp] theorem setBuf_stateW : (s.setBuf b v).stateW = s.stateW := by
  cases b <;> rfl
@[simp] theorem setBuf_aesContext : (s.setBuf b v).aesContext = s.aesContext := by
  cases b <;> rfl
@[simp] theorem setBuf_faulted : (s.setBuf b v).faulted = s.faulted := by
  cases b <;> rfl
@[simp] theorem setBuf_host : (s.setBuf b v).host = s.host := by
  cases b <;> rfl
@[simp] theorem setBuf_readData : (s.setBuf b v).readData = s.readData := by
  cases b <;> rfl
@[simp] theorem setBuf_turns : (s.setBuf b v).turns = s.turns := by
  cases b <;> rfl
@[simp] theorem setBuf_draws : (s.setBuf b v).draws = s.draws := by
  cases b <;> rfl
@[simp] theorem setBuf_fresh : (s.setBuf b v).fresh = s.fresh := by
  cases b <;> rfl

end

end Sys2Proof.Machine
end

