-- ==== Sys2Proof/Laws/Ops.lean ====
section
/-! SUPPORT. The shared operations and the meanings of the commands: once each, everything they can do. -/

namespace Sys2Proof.Machine

/-- The issue of a command (R204): HF7, or the operation has begun. -/
theorem accept_cases (i : Instr) (first : Phase) (s : State) :
    (operandsValid i s = false ∧ accept i first s = raise .hf7 s) ∨
    (operandsValid i s = true ∧
      accept i first s = { s with result := .ok, cmdErr := false, phase := first }) := by
  unfold accept
  cases h : operandsValid i s <;> simp

/-- Engine construction (R163): a context, or the engine error. -/
theorem kdfConstruct_cases (canFail : Bool) (s : State) :
    (drawAnswer canFail s = true ∧ kdfConstruct canFail s =
      { drawTaken s with aesContext := some s.kdfSeed.bytes, roundIndex := 0, phase := .kdfCheck }) ∨
    (drawAnswer canFail s = false ∧ kdfConstruct canFail s = engineError .engineInitFailed (drawTaken s)) := by
  unfold kdfConstruct
  cases h : drawAnswer canFail s <;> simp

/-- The round check (R165): the end, a progress request, or the round. -/
theorem kdfConsider_cases (s : State) :
    (s.roundIndex = roundCount s ∧ kdfConsider s = finishKdf .ok s) ∨
    (s.roundIndex ≠ roundCount s ∧ s.progressEn = true ∧ atCadence s.roundIndex = true ∧
      kdfConsider s = raiseRequest s) ∨
    (s.roundIndex ≠ roundCount s ∧ ¬(s.progressEn = true ∧ atCadence s.roundIndex = true) ∧
      kdfConsider s = { s with phase := .kdfRound }) := by
  unfold kdfConsider
  by_cases h : s.roundIndex = roundCount s
  · simp [h]
  · by_cases h2 : s.progressEn = true ∧ atCadence s.roundIndex = true
    · simp [h, h2]
    · simp only [Bool.and_eq_true]
      simp [h, h2]

/-- A round (R169): the key transformed, or the engine error. -/
theorem kdfApply_cases (enc : WordBytes 8 → WordBytes 4 → WordBytes 4) (canFail : Bool) (s : State) :
    (drawAnswer canFail s = true ∧ kdfApply enc canFail s =
      { drawTaken s with
        kdfKey := Buf.ofBytes (kdfF enc s.kdfSeed.bytes s.kdfKey.bytes)
        roundIndex := s.roundIndex + 1
        phase := .kdfCheck }) ∨
    (drawAnswer canFail s = false ∧ kdfApply enc canFail s = engineError .engineStepFailed (drawTaken s)) := by
  unfold kdfApply
  cases h : drawAnswer canFail s <;> simp

/-- The answer to a request (R206). -/
theorem answerRequest_cases (v : Word) (s : State) :
    (v = 0 ∧ answerRequest v s = { s with phase := .kdfRound }) ∨
    (v ≠ 0 ∧ answerRequest v s = finishKdf .ok s) := by
  unfold answerRequest
  by_cases h : v = 0
  · exact .inl ⟨h, if_pos h⟩
  · exact .inr ⟨h, if_neg h⟩

/-- A draw that is fixed from outside to be ok answers ok (R11). -/
theorem drawAnswer_ok (canFail : Bool) (s : State) (ds : List Bool) (h : s.draws = true :: ds) :
    drawAnswer canFail s = true := by simp [drawAnswer, h]

/-- A draw that is fixed from outside to fail does so exactly when the engine can fail (R11). -/
theorem drawAnswer_fail (canFail : Bool) (s : State) (ds : List Bool) (h : s.draws = false :: ds) :
    drawAnswer canFail s = !canFail := by simp [drawAnswer, h]

theorem drawTaken_cons (s : State) (d : Bool) (ds : List Bool) (h : s.draws = d :: ds) :
    drawTaken s = { s with draws := ds } := by simp [drawTaken, h]

/-- `F^(n+1)` is `F` after `F^n` (R168, R175). -/
theorem kdfFn_succ (enc : WordBytes 8 → WordBytes 4 → WordBytes 4) (seed k : WordBytes 8) (n : Nat) :
    kdfFn enc seed (n + 1) k = kdfF enc seed (kdfFn enc seed n k) := by
  induction n generalizing k with
  | zero => rfl
  | succ n ih => rw [kdfFn, ih]; rfl

/-- The round count reads KDF_ROUNDS alone. -/
theorem roundCount_congr (s t : State) (h : t.kdfRounds = s.kdfRounds) : roundCount t = roundCount s := by
  simp [roundCount, h]

/-- The cadence test on numbers (R7, R165). -/
theorem atCadence_iff (i : DWord) : atCadence i = true ↔ i.toNat % Config.progressInterval = 0 := by
  simp [atCadence]

/-- Every command always answers a next state. -/
theorem exec_next (i : Instr) (s : State) : ∃ t, exec i s = .next t := by
  cases i
  · simp only [exec, execSalsa20Block]; cases s.phase <;> exact ⟨_, rfl⟩
  · simp only [exec, execChacha20Block]; cases s.phase <;> exact ⟨_, rfl⟩
  · exact ⟨_, rfl⟩

/-- What a command's step can do, said once: its issue from IDLE; an ENGINE step of the operation in progress; nothing
while it waits; HF5 while another operation runs. -/
theorem exec_cases {i : Instr} {s t : State} (h : exec i s = .next t) :
    (s.phase = .idle ∧ ∃ first, first ≠ .idle ∧ first.running = some i ∧ first.inLoop = false ∧ t = accept i first s) ∨
    (s.phase = .salsaRun ∧ i = .salsa20Block ∧ t = salsaComplete s) ∨
    (s.phase = .chachaRun ∧ i = .chacha20Block ∧ t = chachaComplete s) ∨
    (s.phase = .kdfInit ∧ i = .aeskdfTransform ∧ t = kdfConstruct Config.aesEngineCanFail s) ∨
    (s.phase = .kdfCheck ∧ i = .aeskdfTransform ∧ t = kdfConsider s) ∨
    (s.phase = .kdfWait ∧ i = .aeskdfTransform ∧ t = s) ∨
    (s.phase = .kdfRound ∧ i = .aeskdfTransform ∧ t = kdfApply Config.aes256Enc Config.aesEngineCanFail s) ∨
    (s.phase.running ≠ some i ∧ s.phase ≠ .idle ∧ t = raise .hf5 s) := by
  cases i
  · simp only [exec, execSalsa20Block] at h
    cases hp : s.phase <;> simp only [hp] at h <;> cases h <;>
      simp [Phase.running]
    exact ⟨.salsaRun, by decide, rfl, rfl, rfl⟩
  · simp only [exec, execChacha20Block] at h
    cases hp : s.phase <;> simp only [hp] at h <;> cases h <;>
      simp [Phase.running]
    exact ⟨.chachaRun, by decide, rfl, rfl, rfl⟩
  · simp only [exec, execAeskdfTransform, kdfStep] at h
    cases hp : s.phase <;> simp only [hp] at h <;> cases h <;>
      simp [Phase.running]
    exact ⟨.kdfInit, by decide, rfl, rfl, rfl⟩

end Sys2Proof.Machine
end

