-- ==== Sys2Proof/Laws/Window.lean ====
section
/-! SUPPORT. The register map (R54): offsets and register words determine each other. -/

namespace Sys2Proof.Machine

/-- The map is onto: every register word stands at its offset. -/
theorem slotAt_offset (slot : Slot) : slotAt slot.offset = some slot := by
  cases slot with
  | buf b j => revert j; cases b <;> decide
  | _ => rfl

theorem slotInBuf_offset {off : Nat} {b : BufName} {slot : Slot} (h4 : off % 4 = 0)
    (h : slotInBuf off b = some slot) : slot.offset = off := by
  unfold slotInBuf at h
  split at h
  · next hb =>
    cases h
    have : b.base % 4 = 0 := by cases b <;> rfl
    simp only [Slot.offset]
    omega
  · cases h

/-- The map is one to one: a word-aligned offset that reaches a register word is that word's offset. -/
theorem offset_of_slotAt {off : Nat} {slot : Slot} (h4 : off % 4 = 0) (h : slotAt off = some slot) :
    slot.offset = off := by
  unfold slotAt at h
  split_ifs at h
  all_goals first
    | (cases h; simp only [Slot.offset]; omega)
    | (obtain ⟨b, -, hb⟩ := List.exists_of_findSome?_eq_some h
       exact slotInBuf_offset h4 hb)

/-- R70: the unmapped offsets. -/
theorem slotAt_unmapped {off : Nat} (h : (0x020 ≤ off ∧ off < 0x040) ∨ (0x0F0 ≤ off ∧ off < 0x100) ∨ 0x140 ≤ off) :
    slotAt off = none := by
  have hb : ∀ b, slotInBuf off b = none := by
    intro b
    unfold slotInBuf
    rw [dif_neg]
    cases b <;> simp only [BufName.base, BufName.words] <;> omega
  unfold slotAt
  split_ifs
  all_goals first
    | omega
    | exact List.findSome?_eq_none_iff.mpr fun b _ => hb b

end Sys2Proof.Machine
end

