-- ==== Sys2Proof/Laws/HostInterface.lean ====
section
/-! SUPPORT. Host accesses: what admission lets through (R201), and everything an access can do, said once. -/

namespace Sys2Proof.Machine

/-- A 32-bit aligned access of a mapped offset passes checks 1 and 2 of R201; the other checks decide. -/
theorem admission_mapped {a : Access} {s : State} {slot : Slot} (hw : a.width = 32) (h4 : a.off.toNat % 4 = 0)
    (hs : slotAt a.off.toNat = some slot) : admission a s = admissionOf a slot s := by
  simp [admission, hw, h4, hs]

/-- The offset of a buffer word is aligned and fits an offset word. -/
theorem bufOffset_aligned (b : BufName) (j : Fin b.words) :
    (Slot.buf b j).offset < 2 ^ 32 ∧ (Slot.buf b j).offset % 4 = 0 := by
  revert j; cases b <;> decide

/-- A 32-bit access at a buffer word's own offset reaches that word. -/
theorem admission_buf {a : Access} {s : State} {b : BufName} {j : Fin b.words} (hw : a.width = 32)
    (ho : a.off = BitVec.ofNat 32 (Slot.buf b j).offset) : admission a s = admissionOf a (.buf b j) s := by
  have := bufOffset_aligned b j
  apply admission_mapped hw
  · rw [ho]; simp [this.2]
  · rw [ho]; simp only [BitVec.toNat_ofNat, Nat.mod_eq_of_lt this.1]; exact slotAt_offset _

/-- R201: what an admitted access satisfies, check by check. -/
theorem admission_ok {a : Access} {s : State} {slot : Slot} (h : admission a s = .ok slot) :
    a.width = 32 ∧ a.off.toNat % 4 = 0 ∧ slotAt a.off.toNat = some slot ∧
    (a.isRead = true → slot.writeOnly = false ∧ slotReadable s slot = true) ∧
    (a.isRead = false → slot.readOnly = false) ∧
    (s.phase.busy = true → Access.allowedWhileBusy a.isRead slot = true) ∧
    (a.isRead = false → slot = .progResp → s.phase.progReq = true) ∧
    ctrlWriteLegal a slot = true := by
  unfold admission at h
  split at h
  · cases h
  next h2 =>
  split at h
  · cases h
  next slot' hs =>
  unfold admissionOf at h
  split_ifs at h with c1 c2 c3 c4 c5 c6
  cases h
  simp only [Bool.or_eq_true, decide_eq_true_eq, not_or, Decidable.not_not] at h2
  refine ⟨h2.1, h2.2, hs, ?_, ?_, ?_, ?_, ?_⟩ <;> revert c1 c2 c3 c4 c5 c6 <;>
    cases a.isRead <;> cases s.phase.busy <;> cases s.phase.progReq <;> simp <;> grind

/-- An admitted access reaches the register word whose offset it names. -/
theorem admission_offset {a : Access} {s : State} {slot : Slot} (h : admission a s = .ok slot) :
    slot.offset = a.off.toNat :=
  have h := admission_ok h
  offset_of_slotAt h.2.1 h.2.2.1

/-- Everything a host access can do (R201 to R206, R236). -/
theorem hostAccess_cases {a : Access} {s t : State} (h : hostAccess a s = .next t) :
    (∃ code, admission a s = .error code ∧ t = raise code s) ∨
    (∃ slot, admission a s = .ok slot ∧ a.isRead = true ∧ t = { s with readData := slotValue s slot }) ∨
    (∃ w off v e, a = .write w off v ∧ admission a s = .ok .cmd ∧ s.phase = .idle ∧ decode v = .error e ∧
      t = { s with cmdErr := true }) ∨
    (∃ w off v i, a = .write w off v ∧ admission a s = .ok .cmd ∧ s.phase = .idle ∧ decode v = .ok i ∧
      exec i s = .next t) ∨
    (∃ w off v, a = .write w off v ∧ admission a s = .ok .progResp ∧ s.phase = .kdfWait ∧ t = answerRequest v s) ∨
    (∃ w off v, a = .write w off v ∧ admission a s = .ok .kdfCtrl ∧ s.phase = .idle ∧ kdfCtrlLegal v = true ∧
      t = { s with progressEn := progressEnOf v }) ∨
    (∃ w off v b j, a = .write w off v ∧ admission a s = .ok (.buf b j) ∧ s.phase = .idle ∧ b ≠ .out ∧
      t = s.setBuf b ((s.buf b).setWord j v)) := by
  unfold hostAccess at h
  cases hadm : admission a s with
  | error code => rw [hadm] at h; cases h; exact .inl ⟨code, rfl, rfl⟩
  | ok slot =>
    rw [hadm] at h
    obtain ⟨-, -, -, -, hro, hbusy, hresp, hctrl⟩ := admission_ok hadm
    have idle_of : Access.allowedWhileBusy a.isRead slot = false → s.phase = .idle := by
      intro hf
      by_contra hne
      have : s.phase.busy = true := by simp [Phase.busy, hne]
      rw [hf] at hbusy
      exact absurd (hbusy this) (by simp)
    cases a with
    | read w off => cases h; exact .inr (.inl ⟨slot, rfl, rfl, rfl⟩)
    | write w off v =>
      cases slot with
      | cmd =>
        have hi := idle_of rfl
        simp only [performAccess, performWrite, issueCommand] at h
        cases hd : decode v with
        | error e => rw [hd] at h; cases h; exact .inr (.inr (.inl ⟨w, off, v, e, rfl, rfl, hi, hd, rfl⟩))
        | ok i => rw [hd] at h; exact .inr (.inr (.inr (.inl ⟨w, off, v, i, rfl, rfl, hi, hd, h⟩)))
      | progResp =>
        cases h
        have hw : s.phase = .kdfWait := by simpa [Phase.progReq] using hresp rfl rfl
        exact .inr (.inr (.inr (.inr (.inl ⟨w, off, v, rfl, rfl, hw, rfl⟩))))
      | kdfCtrl =>
        cases h
        exact .inr (.inr (.inr (.inr (.inr (.inl ⟨w, off, v, rfl, rfl, idle_of rfl, hctrl, rfl⟩)))))
      | buf b j =>
        cases h
        have hb : b ≠ .out := by
          intro e
          have := hro rfl
          simp [Slot.readOnly, e] at this
        exact .inr (.inr (.inr (.inr (.inr (.inr ⟨w, off, v, b, j, rfl, rfl, idle_of rfl, hb, rfl⟩)))))
      | status => exact absurd (hro rfl) (by simp [Slot.readOnly])
      | progIndexLo => exact absurd (hro rfl) (by simp [Slot.readOnly])
      | progIndexHi => exact absurd (hro rfl) (by simp [Slot.readOnly])

/-- A host access always answers a next state: a fault of the host is recorded, not a stop (R236). -/
theorem hostAccess_next (a : Access) (s : State) : ∃ t, hostAccess a s = .next t := by
  unfold hostAccess
  cases admission a s with
  | error code => exact ⟨_, rfl⟩
  | ok slot =>
    cases a with
    | read w off => exact ⟨_, rfl⟩
    | write w off v =>
      cases slot with
      | cmd =>
        simp only [performAccess, performWrite, issueCommand]
        cases decode v with
        | error e => exact ⟨_, rfl⟩
        | ok i => exact exec_next i s
      | _ => exact ⟨_, rfl⟩

/-- A HOST step happens only where FAULTED is clear (R200), and there it is the access. -/
theorem hostTurn_next {a : Access} {s t : State} (h : hostTurn a s = .next t) :
    s.faulted = none ∧ hostAccess a s = .next t := by
  unfold hostTurn at h
  cases hf : s.faulted with
  | none => rw [hf] at h; exact ⟨rfl, h⟩
  | some c => rw [hf] at h; cases h

theorem hostTurn_clear {a : Access} {s : State} (h : s.faulted = none) : hostTurn a s = hostAccess a s := by
  simp [hostTurn, h]

end Sys2Proof.Machine
end

