-- ==== Sys2Proof/Laws/PerInstr.lean ====
section
/-! SUPPORT. What holds of every command as syntax (R80 to R83): its word has the fields of R82, is well formed, and
decodes to it alone. -/

/-- R81, R82: the command's fields are legal, its word carries exactly them, and the word and its bytes decode to it. -/
def Sys2Proof.Laws.DecodeEncode.Statement (i : Sys2Proof.Instr) : Prop :=
  i.wellFormed = true ∧ (Sys2Proof.fieldsOfInstr i).wellFormed = true ∧
  Sys2Proof.fieldsOf (Sys2Proof.encode i) = Sys2Proof.fieldsOfInstr i ∧
  Sys2Proof.decode (Sys2Proof.encode i) = .ok i ∧
  Sys2Proof.decodeBytes (Sys2Proof.encodeBytes i) = .ok (i, [])

theorem Sys2Proof.Laws.DecodeEncode.salsa20Block :
    Sys2Proof.Laws.DecodeEncode.Statement .salsa20Block := by
  refine ⟨rfl, ?_, ?_, ?_, ?_⟩ <;> decide

theorem Sys2Proof.Laws.DecodeEncode.chacha20Block :
    Sys2Proof.Laws.DecodeEncode.Statement .chacha20Block := by
  refine ⟨rfl, ?_, ?_, ?_, ?_⟩ <;> decide

theorem Sys2Proof.Laws.DecodeEncode.aeskdfTransform :
    Sys2Proof.Laws.DecodeEncode.Statement .aeskdfTransform := by
  refine ⟨rfl, ?_, ?_, ?_, ?_⟩ <;> decide
end

