-- ==== Sys2Proof/Laws/Step.lean ====
section
/-! SUPPORT. Everything one step of the system can do, said once, from which every invariant follows. -/

namespace Sys2Proof.Machine

/-- A variable that has just been assigned has its new value. -/
theorem lookupVar_assignVar (x : HostVar) (v : DWord) (vars : List (HostVar × DWord)) :
    lookupVar x (assignVar x v vars) = some v := by
  induction vars with
  | nil => simp [assignVar, lookupVar]
  | cons p rest ih =>
    unfold assignVar
    by_cases h : p.1 = x <;> simp [h, lookupVar, ih]

/-- A run of one step is that step. -/
theorem run_one {s t : State} (h : step s = .next t) : Host.Core.run Sys2Proof.core 1 s = .next t := by
  have : Sys2Proof.core.step s = .next t := h
  simp only [Host.Core.run, this]

/-- A run goes on from where a run of its first steps ended. -/
theorem run_add {a b : Nat} {s u : State} (h : Host.Core.run Sys2Proof.core a s = .next u) :
    Host.Core.run Sys2Proof.core (a + b) s = Host.Core.run Sys2Proof.core b u := by
  induction a generalizing s with
  | zero => cases h; simp
  | succ a ih =>
    rw [show a + 1 + b = (a + b) + 1 by omega]
    simp only [Host.Core.run] at h ⊢
    split at h
    · exact ih h
    · cases h
    · cases h

/-- A line of a host program moves the host alone, or makes one access and then moves the host. -/
theorem runLine_cases {line : Line} {s t : State} (h : runLine line s = .next t) :
    (∃ host, t = s.withHost host) ∨
    (∃ a u, s.faulted = none ∧ hostAccess a s = .next u ∧ ∃ host, t = u.withHost host) := by
  have same (u : State) : u = u.withHost u.host := rfl
  have acc : ∀ a after, accessThen a after s = .next t →
      ∃ a u, s.faulted = none ∧ hostAccess a s = .next u ∧ ∃ host, t = u.withHost host := by
    intro a after h
    unfold accessThen at h
    cases hh : hostTurn a s with
    | next u =>
      rw [hh] at h
      simp only [Host.Outcome.next.injEq] at h
      obtain ⟨hf, ha⟩ := hostTurn_next hh
      refine ⟨a, u, hf, ha, ?_⟩
      split at h
      · exact ⟨u.host, by rw [← h]; rfl⟩
      · exact ⟨_, h.symm⟩
    | fault f => rw [hh] at h; cases h
    | refused r => rw [hh] at h; cases h
  have mov : ∀ o, hostMoves s o = .next t → ∃ host, t = s.withHost host := by
    intro o h
    cases o with
    | none => cases h
    | some host => cases h; exact ⟨host, rfl⟩
  cases line with
  | wr off val =>
    simp only [runLine] at h
    split at h
    · exact .inr (acc _ _ h)
    · cases h
  | rd v off => exact .inr (acc _ _ h)
  | label l => simp only [runLine] at h; exact .inl (mov _ h)
  | assign v e => exact .inl (mov _ h)
  | ifGoto c l =>
    simp only [runLine] at h
    split at h
    · exact .inl (mov _ h)
    · exact .inl (mov _ h)
    · cases h
  | goto l => exact .inl (mov _ h)
  | halt => simp only [runLine] at h; exact .inl (mov _ h)

/-- What a turn can do. -/
theorem takeTurn_cases {turn : Turn} {u t : State} (h : takeTurn turn u = .next t) :
    (∃ host, t = u.withHost host) ∨
    (∃ i, u.phase.running = some i ∧ exec i u = .next t) ∨
    (∃ a v, u.faulted = none ∧ hostAccess a u = .next v ∧ ∃ host, t = v.withHost host) ∨
    (turn = .reset ∧ t = resetEvent u) := by
  cases turn with
  | engine =>
    simp only [takeTurn, engineTurn] at h
    split at h
    · next i hi => exact .inr (.inl ⟨i, hi, h⟩)
    · cases h; exact .inl ⟨_, rfl⟩
  | access a =>
    obtain ⟨hf, ha⟩ := hostTurn_next h
    exact .inr (.inr (.inl ⟨a, t, hf, ha, t.host, rfl⟩))
  | program =>
    simp only [takeTurn, programTurn] at h
    split at h
    · cases h; exact .inl ⟨_, rfl⟩
    · split at h
      · rcases runLine_cases h with hl | ⟨a, v, hf, ha, hh⟩
        · exact .inl hl
        · exact .inr (.inr (.inl ⟨a, v, hf, ha, hh⟩))
      · cases h
  | reset => cases h; exact .inr (.inr (.inr ⟨rfl, rfl⟩))

/-- Everything a step can do, to the state in which the turn that takes place is past. -/
theorem step_cases {s t : State} (h : step s = .next t) :
    (∃ host, t = s.pastTurn.withHost host) ∨
    (∃ i, s.phase.running = some i ∧ exec i s.pastTurn = .next t) ∨
    (∃ a v, s.faulted = none ∧ hostAccess a s.pastTurn = .next v ∧ ∃ host, t = v.withHost host) ∨
    (s.turns.head? = some .reset ∧ t = resetEvent s.pastTurn) := by
  unfold step nextStep at h
  split at h
  · next ht =>
    have hs : s.pastTurn = s := by cases s; simp_all [State.pastTurn]
    rw [hs]
    unfold unattended engineTurn at h
    split at h
    · cases h
    · cases h; exact .inl ⟨_, rfl⟩
    all_goals
      next hp =>
      simp only [hp, Phase.running] at h ⊢
      exact .inr (.inl ⟨_, rfl, h⟩)
  · next turn rest ht =>
    rcases takeTurn_cases h with h | h | h | ⟨rfl, hr⟩
    · exact .inl h
    · exact .inr (.inl h)
    · exact .inr (.inr (.inl h))
    · exact .inr (.inr (.inr ⟨by rw [ht]; rfl, hr⟩))

end Sys2Proof.Machine
end

