-- ==== Sys2Proof/Tests/Slice0.lean ====
section
/-! SUPPORT. Tests of the model: expected values from spec/95_test_vectors.md and the tables of spec/, one witness for
each statement that has hypotheses, and a standard AES-256 that only the AES-KDF vectors use (log entry 21). -/

open Sys2Proof Sys2Proof.Machine

namespace Sys2Proof.Tests

/-! ## Helpers -/

/-- A buffer from a number written in hex, byte 0 first. -/
def hexBytes (n v : Nat) : WordBytes n := Vector.ofFn fun k : Fin (4 * n) => BitVec.ofNat 8 (v >>> (8 * (4 * n - 1 - k.val)))

/-- A 16-word array from its words. -/
def words (l : List Word) : Words16 := Vector.ofFn fun k : Fin 16 => l.getD k.val 0

/-- The state a step answers, or the reset state where it answers none. -/
def nextOf (o : StepOutcome) : State :=
  match o with
  | .next t => t
  | .fault _ => State.reset
  | .refused _ => State.reset

/-- The host fault a step records, if it answers a next state. -/
def faultOf (o : StepOutcome) : Option HostFault := (nextOf o).faulted

/-- The bytes 0x00 to 0x1f ("seed A" of 95_test_vectors.md). -/
def seedA : WordBytes 8 := hexBytes 8 0x000102030405060708090a0b0c0d0e0f101112131415161718191a1b1c1d1e1f

/-- "key A" of 95_test_vectors.md. -/
def keyA : WordBytes 8 := hexBytes 8 0x00112233445566778899aabbccddeeff00112233445566778899aabbccddeeff

/-- "key B" of 95_test_vectors.md. -/
def keyB : WordBytes 8 := hexBytes 8 0x00112233445566778899aabbccddeeff0f0e0d0c0b0a09080706050403020100

/-- An IDLE block with every operand written: the inputs of vectors S-1, C-2 and K-4. -/
def ready : State :=
  { State.reset with
    sKey := Buf.ofBytes (hexBytes 8 0)
    sIv := Buf.ofBytes (hexBytes 2 0)
    sCtr := Buf.ofBytes (hexBytes 2 0)
    sConst := Buf.ofBytes (hexBytes 4 0x657870616e642033322d62797465206b)
    cKey := Buf.ofBytes seedA
    cNonce := Buf.ofBytes (hexBytes 3 0x000000090000004a00000000)
    cCtr := Buf.ofBytes (hexBytes 1 0x01000000)
    kdfSeed := Buf.ofBytes seedA
    kdfKey := Buf.ofBytes keyA
    kdfRounds := Buf.ofBytes (hexBytes 2 0x0300000000000000) }

/-- `ready` in a phase. -/
def inPhase (p : Phase) : State := { ready with phase := p }

/-! ## Well-formedness: an ill-formed term for each check (R81 to R83) -/

theorem test_wf_refuses_reserved_bit : (fieldsOf 0x00000101).wellFormed = false := by decide

theorem test_wf_reserved_bit_is_the_check_that_fails :
    (fieldsOf 0x00000101).reservedClear = false ∧ (fieldsOf 0x00000101).opAssigned = true := by decide

theorem test_wf_refuses_unassigned_op :
    (fieldsOf 0x00000000).wellFormed = false ∧ (fieldsOf 0x00000004).wellFormed = false ∧
    (fieldsOf 0x00000004).reservedClear = true := by decide

/-! ## Decoding: words written out bit by bit from R81 and R82 -/

theorem test_decode_salsa20_block :
    decode 0b00000000000000000000000000000001 = .ok .salsa20Block ∧
    decodeBytes [0x01, 0x00, 0x00, 0x00] = .ok (.salsa20Block, []) ∧
    decodeTableWord 32 1 = some .salsa20Block := by decide

theorem test_decode_chacha20_block :
    decode 0b00000000000000000000000000000010 = .ok .chacha20Block ∧
    decodeBytes [0x02, 0x00, 0x00, 0x00, 0xAA] = .ok (.chacha20Block, [0xAA]) ∧
    decodeTableWord 32 2 = some .chacha20Block := by decide

theorem test_decode_aeskdf_transform :
    decode 0b00000000000000000000000000000011 = .ok .aeskdfTransform ∧
    decodeBytes [0x03, 0x00, 0x00, 0x00] = .ok (.aeskdfTransform, []) ∧
    decodeTableWord 8 3 = some .aeskdfTransform := by decide

/-- R83 and section 4.1 of 95_test_vectors.md: illegal words, by name, and bytes too short to hold a word. -/
theorem test_decode_refuses :
    decode 0x00000004 = .error (.opUnassigned 0x04) ∧ decode 0x80000002 = .error .reservedBits ∧
    decodeBytes [0x01, 0x00, 0x00] = .error .truncated ∧ decodeTableWord 32 0x101 = none := by decide

/-- The placed word is what the next step runs: from reset, HF7 (R204, section 4.3 of 95_test_vectors.md). -/
theorem test_placed_word_runs :
    faultOf (step (State.reset.withFetchWord 32 1)) = some .hf7 ∧
    statusWord (nextOf (step (ready.withFetchWord 32 1))) = 0x00000001 := by decide

/-! ## SALSA20_BLOCK -/

/-- The published quarter-round examples, rows 2, 6 and 7 of section 1.2. -/
theorem test_salsa_quarterround :
    (salsaQR (words [1, 0, 0, 0]) ⟨0, 1, 2, 3⟩).toList.take 4 = [0x08008145, 0x00000080, 0x00010200, 0x20500000] ∧
    (salsaQR (words [0xe7e8c006, 0xc4f9417d, 0x6479b4b2, 0x68c67137]) ⟨0, 1, 2, 3⟩).toList.take 4 =
      [0xe876d72b, 0x9361dfd5, 0xf1460244, 0x948541a3] ∧
    (salsaQR (words [0xd3917c5b, 0x55f1c407, 0x52a58a7a, 0x8f887a3b]) ⟨0, 1, 2, 3⟩).toList.take 4 =
      [0x3e2f308c, 0xd90a8f36, 0x6ab2a923, 0x2883524c] := by decide

/-- The second published double-round example of section 1.2. -/
theorem test_salsa_doubleround :
    salsaDoubleRound (words [
      0xde501066, 0x6f9eb8f7, 0xe4fbbd9b, 0x454e3f57, 0xb75540d3, 0x43e93a4c, 0x3a6f2aa0, 0x726d6b36,
      0x9243f484, 0x9145d1e8, 0x4fa9d247, 0xdc8dee11, 0x054bf545, 0x254dd653, 0xd9421b6d, 0x67b276c1]) =
    words [
      0xccaaf672, 0x23d960f7, 0x9153e63a, 0xcd9a60d0, 0x50440492, 0xf07cad19, 0xae344aa0, 0xdf4cfdfc,
      0xca531c29, 0x8e7943db, 0xac1680cd, 0xd503ca00, 0xa74b2ad6, 0xbc331c5c, 0x1dda24c7, 0xee928277] := by
  decide +kernel

/-- Vector E-S6, the published expansion example: one ENGINE step. -/
theorem test_salsa_engine_step :
    (nextOf (exec .salsa20Block { inPhase .salsaRun with
      sKey := Buf.ofBytes (hexBytes 8 0x0102030405060708090a0b0c0d0e0f10c9cacbcccdcecfd0d1d2d3d4d5d6d7d8)
      sIv := Buf.ofBytes (hexBytes 2 0x65666768696a6b6c)
      sCtr := Buf.ofBytes (hexBytes 2 0x6d6e6f7071727374) })).out.bytes =
    hexBytes 16 0x45254427290f6bc1ff8b7a06aae9d9625990b66a1533c841ef31de22d772287e68c507e1c5991f02664e4cb054f5f6b8b1a0858206489577c0c384ecea67f64a := by
  decide +kernel

/-! ## CHACHA20_BLOCK -/

/-- Examples E-C1 and E-C2. -/
theorem test_chacha_quarterround :
    (chachaQR (words [0x11111111, 0x01020304, 0x9b8d6f43, 0x01234567]) ⟨0, 1, 2, 3⟩).toList.take 4 =
      [0xea2a92f4, 0xcb1cf8ce, 0x4581472e, 0x5881c4bb] ∧
    chachaQR (words [
      0x879531e0, 0xc5ecf37d, 0x516461b1, 0xc9a62f8a, 0x44c20ef3, 0x3390af7f, 0xd9fc690b, 0x2a5f714c,
      0x53372767, 0xb00a5631, 0x974c541a, 0x359e9963, 0x5c971061, 0x3d631689, 0x2098d9d6, 0x91dbd320]) ⟨2, 7, 8, 13⟩ =
    words [
      0x879531e0, 0xc5ecf37d, 0xbdb886dc, 0xc9a62f8a, 0x44c20ef3, 0x3390af7f, 0xd9fc690b, 0xcfacafd2,
      0xe46bea80, 0xb00a5631, 0x974c541a, 0x359e9963, 0x5c971061, 0xccc07c79, 0x2098d9d6, 0x91dbd320] := by
  decide +kernel

/-- Vector C-2: one ENGINE step. -/
theorem test_chacha_engine_step :
    (nextOf (exec .chacha20Block (inPhase .chachaRun))).out.bytes =
    hexBytes 16 0x10f1e7e4d13b5915500fdd1fa32071c4c7d1f4c733c068030422aa9ac3d46c4ed2826446079faa0914c2d705d98b02a2b5129cd1de164eb9cbd083e8a2503c4e := by
  decide +kernel

/-! ## AESKDF_TRANSFORM, with a standard AES-256 (FIPS-197; PRESUMED, log entry 21) -/

/-- The S-box, sixteen bytes a number, entry 0 lowest. -/
def sboxRows : List Nat :=
  [0x76abd7fe2b670130c56f6bf27b777c63, 0xc072a49cafa2d4adf04759fa7dc982ca,
   0x1531d871f1e5a534ccf73f362693fdb7, 0x75b227ebe28012079a059618c323c704,
   0x842fe329b3d63b52a05a6e1b1a2c8309, 0xcf584c4a39becb6a5bb1fc20ed00d153,
   0xa89f3c507f02f94585334d43fbaaefd0, 0xd2f3ff1021dab6bcf5389d928f40a351] ++
  [0x73195d643d7ea7c41744975fec130ccd, 0xdb0b5ede14b8ee4688902a22dc4f8160,
   0x79e4959162acd3c25c2406490a3a32e0, 0x08ae7a65eaf4566ca94ed58d6d37c8e7,
   0x8a8bbd4b1f74dde8c6b4a61c2e2578ba, 0x9e1dc186b95735610ef6034866b53e70,
   0xdf2855cee9871e9b948ed9691198f8e1, 0x16bb54b00f2d99416842e6bf0d89a18c]

/-- SubBytes on one byte. -/
def subByte (x : Nat) : Nat := ((sboxRows.getD (x / 16) 0) >>> (8 * (x % 16))) % 256

/-- Multiplication by x. -/
def xtime (x : Nat) : Nat := if x < 128 then 2 * x else (2 * x) ^^^ 0x11b

def xorAll (a b : List Nat) : List Nat := List.zipWith (fun x y => x ^^^ y) a b

def subRotate : List Nat → List Nat
  | [a, b, c, d] => [subByte b, subByte c, subByte d, subByte a]
  | w => w

/-- The next 32 bytes of the key schedule. -/
def nextKey (rcon : Nat) (k : List Nat) : List Nat :=
  let w (i : Nat) := (k.drop (4 * i)).take 4
  let a0 := xorAll (xorAll (w 0) (subRotate (w 7))) [rcon, 0, 0, 0]
  let a1 := xorAll (w 1) a0
  let a2 := xorAll (w 2) a1
  let a3 := xorAll (w 3) a2
  let a4 := xorAll (w 4) (a3.map subByte)
  let a5 := xorAll (w 5) a4
  let a6 := xorAll (w 6) a5
  a0 ++ a1 ++ a2 ++ a3 ++ a4 ++ a5 ++ a6 ++ xorAll (w 7) a6

/-- The expanded key, `n` times 32 bytes more. -/
def expand (rcon : Nat) (k : List Nat) : Nat → List Nat
  | 0 => k
  | n + 1 => k ++ expand (2 * rcon) (nextKey rcon k) n

def shiftRows (s : List Nat) : List Nat := [0, 5, 10, 15, 4, 9, 14, 3, 8, 13, 2, 7, 12, 1, 6, 11].map fun i => s.getD i 0

def mixColumns : List Nat → List Nat
  | a :: b :: c :: d :: rest =>
    (xtime a ^^^ xtime b ^^^ b ^^^ c ^^^ d) :: (a ^^^ xtime b ^^^ xtime c ^^^ c ^^^ d) ::
    (a ^^^ b ^^^ xtime c ^^^ xtime d ^^^ d) :: (xtime a ^^^ a ^^^ b ^^^ c ^^^ xtime d) :: mixColumns rest
  | _ => []

/-- The rounds after the first key addition, the last one without MixColumns. -/
def aesRounds (keys s : List Nat) : Nat → List Nat
  | 0 => xorAll (shiftRows (s.map subByte)) (keys.take 16)
  | n + 1 => aesRounds (keys.drop 16) (xorAll (mixColumns (shiftRows (s.map subByte))) (keys.take 16)) n

/-- The standard AES-256 forward cipher. -/
def aes256 (key : WordBytes 8) (block : WordBytes 4) : WordBytes 4 :=
  let keys := expand 1 (key.toList.map BitVec.toNat) 7
  let s := aesRounds (keys.drop 16) (xorAll (block.toList.map BitVec.toNat) (keys.take 16)) 13
  Vector.ofFn fun k : Fin (4 * 4) => BitVec.ofNat 8 (s.getD k.val 0)

/-- Vector A-1. -/
theorem test_aes256 :
    aes256 seedA (hexBytes 4 0x00112233445566778899aabbccddeeff) = hexBytes 4 0x8ea2b7ca516745bfeafc49904b496089 := by
  decide +kernel

/-- Vector K-5: one round, the two halves apart. -/
theorem test_kdf_round :
    (kdfStep aes256 false { inPhase .kdfRound with kdfKey := Buf.ofBytes keyB }).kdfKey.bytes =
    hexBytes 8 0x8ea2b7ca516745bfeafc49904b49608972b1e3384c734f2b73aac4ca8a4285a1 := by
  decide +kernel

/-- K-E1 and the last failure of K-E2: STATUS after a construction and after a round that fails. -/
theorem test_kdf_engine_errors :
    statusWord (kdfStep aes256 true { inPhase .kdfInit with draws := [false] }) = 0x00000004 ∧
    statusWord (kdfStep aes256 true { inPhase .kdfRound with draws := [false], roundIndex := 2 }) = 0x00000008 := by
  decide

/-! ## The host interface -/

/-- Section 4.2 of 95_test_vectors.md. -/
theorem test_status_words :
    statusWord State.reset = 0x00000000 ∧ statusWord (inPhase .kdfCheck) = 0x00000001 ∧
    statusWord (inPhase .kdfWait) = 0x00000003 ∧
    statusWord { ready with result := .engineInitFailed } = 0x00000004 ∧
    statusWord { ready with result := .engineStepFailed } = 0x00000008 ∧
    statusWord { ready with cmdErr := true } = 0x00000010 ∧
    statusWord { ready with result := .engineInitFailed, cmdErr := true } = 0x00000014 := by decide

/-- Section 4.3 of 95_test_vectors.md, the rows that hold while IDLE and after reset. -/
theorem test_host_faults_idle :
    [Access.read 16 0x004, .read 32 0x006, .read 32 0x022, .read 32 0x020, .write 32 0x0F0 0, .read 32 0x140,
      .read 32 0x000, .read 32 0x008, .write 32 0x004 0, .write 32 0x010 0, .write 32 0x100 0, .write 32 0x008 0,
      .read 32 0x100, .read 32 0x018, .write 32 0x00C 2, .write 32 0x000 1, .write 32 0x000 4].map
      (fun a => faultOf (hostTurn a State.reset)) =
    [some .hf2, some .hf2, some .hf2, some .hf1, some .hf1, some .hf1,
      some .hf3, some .hf3, some .hf4, some .hf4, some .hf4, some .hf8,
      some .hf6, some .hf6, some .hf9, some .hf7, none] := by decide

/-- Section 4.3 of 95_test_vectors.md, the rows that hold while BUSY, and the accesses allowed then. -/
theorem test_host_faults_busy :
    [Access.write 32 0x004 0, .write 32 0x080 0, .read 32 0x100, .write 32 0x00C 0, .write 32 0x000 4,
      .write 32 0x008 1, .read 32 0x004, .read 32 0x010, .read 32 0x014].map
      (fun a => faultOf (hostTurn a (inPhase .kdfCheck))) =
    [some .hf4, some .hf5, some .hf5, some .hf5, some .hf5, some .hf8, none, none, none] := by decide

/-- R203's example: `wr 0x0A8, 1` then `wr 0x0AC, 0` sets `LE64(S_CTR) = 1`. -/
theorem test_operand_writes :
    le64 (nextOf (hostTurn (.write 32 0x0AC 0) (nextOf (hostTurn (.write 32 0x0A8 1) State.reset)))).sCtr.bytes = 1 := by
  decide

/-- A `wr` line of a host program (program P1 of 95_test_vectors.md, line 13). -/
theorem test_host_program_line :
    (nextOf (step { State.reset with
      host := { HostState.empty with program := [.wr 0x0B0 (.const 0x61707865), .halt] }
      turns := [.program] })).sConst.word 0 = 0x61707865 := by decide

/-! ## Witnesses: a state and operands that meet the hypotheses of each statement that has some -/

/-- `ready` with the turns to come. -/
def withTurns (p : Phase) (ts : List Turn) : State := { inPhase p with turns := ts }

/-- `ready` with one line of a host program as the next turn. -/
def atLine (l : Line) (vars : List (HostVar × DWord)) : State :=
  { ready with
    host := { program := [l], line := 0, vars := vars, halted := false }
    turns := [.program] }

theorem witness_EncodedBytesDecodeBack : decodeBytes [0x03, 0x00, 0x00, 0x00, 0xAA] = .ok (.aeskdfTransform, [0xAA]) := by
  decide

theorem witness_StepRunsTheCommand :
    (let s := withTurns .idle [.access (.write 32 0x000 3)]
     s.phase = .idle ∧ s.faulted = none ∧ s.turns = .access (.write 32 0x000 3) :: [] ∧
      decode 3 = .ok .aeskdfTransform) ∧
    (let s := withTurns .kdfWait [.engine]
     s.phase.running = some .aeskdfTransform ∧ s.turns = .engine :: []) ∧
    ((inPhase .salsaRun).phase.running = some .salsa20Block ∧ (inPhase .salsaRun).turns = [] ∧
      (inPhase .salsaRun).phase ≠ .kdfWait) ∧
    decodeTableWord 32 2 = some .chacha20Block := by decide

theorem witness_ResetEventInAnyPhase :
    (withTurns .kdfWait [.reset]).turns = .reset :: [] ∧ (withTurns .idle [.reset]).turns = .reset :: [] := by decide

theorem witness_RegisterMap :
    0x13C % 4 = 0 ∧ slotAt 0x13C = some (.buf .out 15) ∧ 0x000 % 4 = 0 ∧ slotAt 0x000 = some .cmd ∧
    slotAt 0x01F = some (.buf .kdfRounds 1) ∧ slotAt 0x020 = none ∧ slotAt 0x03F = none ∧
    slotAt 0x0EF = some (.buf .cCtr 0) ∧ slotAt 0x0F0 = none ∧ slotAt 0x140 = none := by decide

theorem witness_BadWidthOrAlignment :
    State.reset.faulted = none ∧ (Access.read 16 0x004).width ≠ 32 ∧ (Access.write 64 0x000 1).width ≠ 32 ∧
    (Access.read 32 0x022).off.toNat % 4 ≠ 0 ∧ (Access.read 32 0xFFFFFFFF).off.toNat % 4 ≠ 0 := by decide

theorem witness_UnmappedOffset :
    State.reset.faulted = none ∧
    [0x020, 0x03C, 0x0F0, 0x0FC, 0x140, 0xFFFFFFFC].all (fun off : Word =>
      decide ((Access.read 32 off).width = 32 ∧ off.toNat % 4 = 0 ∧
        ((0x020 ≤ off.toNat ∧ off.toNat < 0x040) ∨ (0x0F0 ≤ off.toNat ∧ off.toNat < 0x100) ∨ 0x140 ≤ off.toNat))) =
      true := by decide

theorem witness_WrongDirection :
    State.reset.faulted = none ∧ (inPhase .kdfWait).faulted = none ∧
    [0x100, 0x13C].all (fun off : Word =>
      decide (0x100 ≤ off.toNat ∧ off.toNat < 0x140 ∧ off.toNat % 4 = 0)) = true := by decide

theorem witness_BusyWindow :
    (inPhase .salsaRun).faulted = none ∧ (inPhase .salsaRun).phase ≠ .idle ∧
    (inPhase .kdfWait).faulted = none ∧ (inPhase .kdfWait).phase ≠ .idle ∧ BufName.cCtr ≠ .out := by decide

theorem witness_ReadsReturnWords :
    ready.faulted = none ∧ ready.phase = .idle ∧ (ready.buf .cCtr).isWritten 0 = true ∧
    (ready.buf .out).isWritten 15 = false := by decide

theorem witness_ReadsHaveNoSideEffect :
    (Access.read 32 0x004).isRead = true ∧
    hostTurn (.read 32 0x004) ready = .next { ready with readData := 0 } ∧
    hostTurn (.read 32 0x000) ready = .next { ready with faulted := some .hf3 } := ⟨rfl, rfl, rfl⟩

theorem witness_StatusReadReturnsTheFlags :
    (inPhase .kdfWait).faulted = none ∧ (inPhase .kdfWait).phase = .kdfWait := by decide

theorem witness_OperandWrite : ready.faulted = none ∧ ready.phase = .idle ∧ BufName.kdfKey ≠ .out := by decide

theorem witness_WriteThenRead :
    ready.faulted = none ∧ ready.phase = .idle ∧ BufName.sCtr ≠ .out ∧
    hostTurn (.write 32 (BitVec.ofNat 32 (Slot.buf .sCtr 1).offset) 7) ready =
      .next (ready.setBuf .sCtr ((ready.buf .sCtr).setWord 1 7)) := ⟨rfl, rfl, by decide, rfl⟩

theorem witness_KdfCtrlRegister :
    ready.faulted = none ∧ ready.phase = .idle ∧ (inPhase .kdfInit).phase ≠ .idle ∧
    (0 : Word).extractLsb' 1 31 = 0 ∧ (1 : Word).extractLsb' 1 31 = 0 ∧
    (2 : Word).extractLsb' 1 31 ≠ 0 ∧ (0x80000001 : Word).extractLsb' 1 31 ≠ 0 := by decide

theorem witness_ProgRespRegister :
    (inPhase .kdfWait).faulted = none ∧ (inPhase .kdfWait).phase = .kdfWait ∧
    (inPhase .kdfRound).faulted = none ∧ (inPhase .kdfRound).phase ≠ .kdfWait ∧
    (0 : Word) = 0 ∧ (1 : Word) ≠ 0 ∧ (0xFFFFFFFF : Word) ≠ 0 := by decide

theorem witness_CommandIssue :
    ready.faulted = none ∧ ready.phase = .idle ∧
    [(0 : Word), 4, 0x101, 0xFFFFFFFF].all (fun v => decide (v ≠ 1 ∧ v ≠ 2 ∧ v ≠ 3)) = true := by decide

theorem witness_HostFaultChangesNothingElse :
    ready.faulted = none ∧
    hostTurn (.read 32 0x020) ready = .next { ready with faulted := some .hf1 } ∧
    ({ ready with faulted := some .hf1 } : State).faulted = some .hf1 := ⟨rfl, rfl, rfl⟩

theorem witness_FaultedIsNeverCleared :
    (let s := { withTurns .kdfCheck [.reset] with faulted := some .hf5 }
     s.faulted = some .hf5 ∧ ∃ t, step s = .next t) ∧
    (let s := { withTurns .salsaRun [.engine] with faulted := some .hf5 }
     s.faulted = some .hf5 ∧ ∃ t, step s = .next t) := ⟨⟨rfl, _, rfl⟩, ⟨rfl, _, rfl⟩⟩

theorem witness_HostStepAfterFaultStops :
    (let s := { withTurns .idle [.access (.read 32 0x004)] with faulted := some .hf9 }
     s.faulted = some .hf9 ∧ s.turns = .access (.read 32 0x004) :: []) := by decide

theorem witness_EachCommandIsAccepted :
    ready.phase = .idle ∧
    ready.sKey.valid = true ∧ ready.sIv.valid = true ∧ ready.sCtr.valid = true ∧ ready.sConst.valid = true ∧
    ready.cKey.valid = true ∧ ready.cNonce.valid = true ∧ ready.cCtr.valid = true ∧
    ready.kdfSeed.valid = true ∧ ready.kdfKey.valid = true ∧ ready.kdfRounds.valid = true := by decide

theorem witness_InputsAreNeverWritten :
    (∃ t, exec .salsa20Block (inPhase .salsaRun) = .next t) ∧ (∃ t, exec .chacha20Block (inPhase .chachaRun) = .next t) ∧
    (∃ t, exec .aeskdfTransform (inPhase .kdfRound) = .next t) := ⟨⟨_, rfl⟩, ⟨_, rfl⟩, ⟨_, rfl⟩⟩

/-- For SalsaQuarterRound and ChachaQuarterRound. -/
theorem witness_QuarterRounds :
    [(15 : Fin 16), 3, 7, 11].Nodup ∧ [(3 : Fin 16), 4, 9, 14].Nodup ∧ (0 : Fin 16) ∉ [(3 : Fin 16), 4, 9, 14] := by
  decide

/-- For SalsaRoundTuples and ChachaRoundTuples: the tuples in the opposite order. -/
theorem witness_RoundTuples :
    salsaColumns.reverse.Perm [⟨0, 4, 8, 12⟩, ⟨5, 9, 13, 1⟩, ⟨10, 14, 2, 6⟩, ⟨15, 3, 7, 11⟩] ∧
    salsaRows.reverse.Perm [⟨0, 1, 2, 3⟩, ⟨5, 6, 7, 4⟩, ⟨10, 11, 8, 9⟩, ⟨15, 12, 13, 14⟩] ∧
    chachaColumns.reverse.Perm [⟨0, 4, 8, 12⟩, ⟨1, 5, 9, 13⟩, ⟨2, 6, 10, 14⟩, ⟨3, 7, 11, 15⟩] ∧
    chachaDiagonals.reverse.Perm [⟨0, 5, 10, 15⟩, ⟨1, 6, 11, 12⟩, ⟨2, 7, 8, 13⟩, ⟨3, 4, 9, 14⟩] := by decide

/-- For SalsaCompletes and ChachaCompletes. -/
theorem witness_BlockCompletes :
    (inPhase .salsaRun).phase = .salsaRun ∧ (inPhase .chachaRun).phase = .chachaRun := by decide

/-- For SalsaWholeCommand and ChachaWholeCommand. -/
theorem witness_WholeCommands :
    (let s := withTurns .idle [.access (.write 32 0x000 1), .engine]
     s.phase = .idle ∧ s.faulted = none ∧ s.sKey.valid = true ∧ s.sIv.valid = true ∧ s.sCtr.valid = true ∧
      s.sConst.valid = true ∧ s.turns = .access (.write 32 0x000 0x00000001) :: .engine :: []) ∧
    (let s := withTurns .idle [.access (.write 32 0x000 2), .engine]
     s.phase = .idle ∧ s.faulted = none ∧ s.cKey.valid = true ∧ s.cNonce.valid = true ∧ s.cCtr.valid = true ∧
      s.turns = .access (.write 32 0x000 0x00000002) :: .engine :: []) := by decide

theorem witness_BlocksAreDeterministic :
    (let s := inPhase .salsaRun
     let t := { inPhase .salsaRun with cmdErr := true, progIndex := 5 }
     s.phase = .salsaRun ∧ t.phase = .salsaRun ∧ s.sKey.bytes = t.sKey.bytes ∧ s.sIv.bytes = t.sIv.bytes ∧
      s.sCtr.bytes = t.sCtr.bytes ∧ s.sConst.bytes = t.sConst.bytes) ∧
    (let s := inPhase .chachaRun
     let t := { inPhase .chachaRun with cmdErr := true, progIndex := 5 }
     s.phase = .chachaRun ∧ t.phase = .chachaRun ∧ s.cKey.bytes = t.cKey.bytes ∧ s.cNonce.bytes = t.cNonce.bytes ∧
      s.cCtr.bytes = t.cCtr.bytes) := ⟨⟨rfl, rfl, rfl, rfl, rfl, rfl⟩, ⟨rfl, rfl, rfl, rfl, rfl⟩⟩

theorem witness_DrawsAnswer : ({ ready with draws := [false, true] } : State).draws = false :: [true] := by decide

theorem witness_EqualHalvesStayEqual : lowHalf keyA = highHalf keyA := by decide

theorem witness_KdfConstruction : (inPhase .kdfInit).phase = .kdfInit := by decide

theorem witness_KdfRoundCheck :
    (let s := { inPhase .kdfCheck with roundIndex := 3 }
     s.phase = .kdfCheck ∧ s.roundIndex = roundCount s) ∧
    (let s := { inPhase .kdfCheck with roundIndex := 0, progressEn := true }
     s.phase = .kdfCheck ∧ s.roundIndex ≠ roundCount s ∧ s.progressEn = true ∧ s.roundIndex.toNat % 100000 = 0) ∧
    (let s := { inPhase .kdfCheck with roundIndex := 100000, progressEn := true }
     s.roundIndex ≠ roundCount s ∧ s.progressEn = true ∧ s.roundIndex.toNat % 100000 = 0) ∧
    (let s := { inPhase .kdfCheck with roundIndex := 0, progressEn := false }
     s.roundIndex ≠ roundCount s ∧ s.progressEn = false) ∧
    (let s := { inPhase .kdfCheck with roundIndex := 99999, progressEn := true }
     s.roundIndex ≠ roundCount s ∧ s.roundIndex.toNat % 100000 ≠ 0) := by decide

theorem witness_KdfRoundStep : (inPhase .kdfRound).phase = .kdfRound := by decide

theorem witness_EngineErrorEntry :
    (let s := { inPhase .kdfInit with draws := [false] }
     s.phase = .kdfInit ∧ s.draws = false :: [] ∧ s.faulted = none ∧ s.cmdErr = false) ∧
    (let s := { inPhase .kdfRound with draws := [false] }
     s.phase = .kdfRound ∧ s.draws = false :: [] ∧ s.faulted = none ∧ s.cmdErr = false) := by decide

theorem witness_OnlyTheHostEndsAWait :
    (let s := withTurns .kdfWait [.engine]
     s.phase = .kdfWait ∧ s.turns = .engine :: []) ∧
    (inPhase .kdfWait).turns = [] ∧
    (∃ t, step (withTurns .kdfWait [.access (.write 32 0x008 0)]) = .next t ∧ t.phase ≠ .kdfWait) ∧
    (∃ t, step (withTurns .kdfWait [.reset]) = .next t ∧ t.phase ≠ .kdfWait) ∧
    (∃ t, step { withTurns .kdfWait [.program] with host := { HostState.empty with program := [stopLine] } } = .next t ∧
      t.phase ≠ .kdfWait) :=
  ⟨⟨rfl, rfl⟩, rfl, ⟨_, rfl, by decide⟩, ⟨_, rfl, by decide⟩, ⟨_, rfl, by decide⟩⟩

/-- An AES-KDF run about to construct its engine, `n` draws ok, with PROGRESS_EN and the turns to come. -/
def kdfRun (rounds : WordBytes 2) (en : Bool) (n : Nat) (ts : List Turn) : State :=
  { inPhase .kdfInit with
    kdfRounds := Buf.ofBytes rounds
    progressEn := en
    draws := List.replicate n true ++ []
    turns := ts }

/-- Vectors K-1 (N = 0) and K-S1 (N = 3). -/
theorem witness_RunWithoutRequests :
    (let s := kdfRun (hexBytes 2 0) false 1 []
     s.phase = .kdfInit ∧ s.progressEn = false ∧ s.turns = [] ∧
      s.draws = List.replicate ((roundCount s).toNat + 1) true ++ []) ∧
    (let s := kdfRun (hexBytes 2 0x0300000000000000) false 4 []
     s.phase = .kdfInit ∧ s.progressEn = false ∧ s.turns = [] ∧
      s.draws = List.replicate ((roundCount s).toNat + 1) true ++ []) := by decide

/-- Vectors K-15 (N = 0) and K-4 (N = 3). -/
theorem witness_RunAnsweringEveryRequest :
    (let s := kdfRun (hexBytes 2 0) true 1 [.engine, .engine]
     s.phase = .kdfInit ∧ s.progressEn = true ∧ s.faulted = none ∧
      s.turns = .engine :: (roundTurns 0 (roundCount s).toNat ++ .engine :: []) ∧
      s.draws = List.replicate ((roundCount s).toNat + 1) true ++ []) ∧
    (let s := kdfRun (hexBytes 2 0x0300000000000000) true 4
      [.engine, .engine, .access (.write 32 0x008 0), .engine, .engine, .engine, .engine, .engine, .engine]
     s.phase = .kdfInit ∧ s.progressEn = true ∧ s.faulted = none ∧
      s.turns = .engine :: (roundTurns 0 (roundCount s).toNat ++ .engine :: []) ∧
      s.draws = List.replicate ((roundCount s).toNat + 1) true ++ []) := by decide

/-- Vectors K-13 (a stop at index 0 of 5) and K-10 (a stop at index 100000 of 1000000). -/
theorem witness_StopLeavesTheKeyOfExactlyThoseRounds :
    (let s := kdfRun (hexBytes 2 0x0500000000000000) true 1 [.engine, .engine, .access (.write 32 0x008 1)]
     s.phase = .kdfInit ∧ s.progressEn = true ∧ s.faulted = none ∧ (1 : Word) ≠ 0 ∧ 0 % 100000 = 0 ∧
      0 < (roundCount s).toNat ∧
      s.turns = .engine :: (roundTurns 0 0 ++ .engine :: .access (.write 32 0x008 1) :: []) ∧
      s.draws = List.replicate (0 + 1) true ++ []) ∧
    (let s := kdfRun (hexBytes 2 0x40420f0000000000) true 100001
      (.engine :: (roundTurns 0 100000 ++ .engine :: .access (.write 32 0x008 0xFFFFFFFF) :: []))
     s.phase = .kdfInit ∧ s.progressEn = true ∧ s.faulted = none ∧ (0xFFFFFFFF : Word) ≠ 0 ∧ 100000 % 100000 = 0 ∧
      100000 < (roundCount s).toNat ∧
      s.turns = .engine :: (roundTurns 0 100000 ++ .engine :: .access (.write 32 0x008 0xFFFFFFFF) :: []) ∧
      s.draws = List.replicate (100000 + 1) true ++ []) :=
  ⟨by decide, rfl, rfl, rfl, by decide, by decide,
    by show 100000 < (le64 (hexBytes 2 0x40420f0000000000)).toNat; decide, rfl, rfl⟩

theorem witness_OperandsAreFixedWhileBusy :
    (inPhase .kdfCheck).phase ≠ .idle ∧ (∃ t, step (inPhase .kdfCheck) = .next t) ∧
    (inPhase .kdfCheck).turns.head? ≠ some .reset := ⟨by decide, ⟨_, rfl⟩, by decide⟩

theorem witness_OutChangesOnlyByCompletion :
    ∃ t, step (inPhase .salsaRun) = .next t ∧ t.out ≠ (inPhase .salsaRun).out :=
  ⟨salsaComplete (inPhase .salsaRun), rfl, fun h => absurd (congrArg (fun b => b.isWritten 0) h) (by decide)⟩

theorem witness_ProgIndexChangesOnlyByRequest :
    (let s := { inPhase .kdfCheck with progressEn := true, progIndex := 100000 }
     ∃ t, step s = .next t ∧ t.progIndex ≠ s.progIndex) := ⟨_, rfl, by decide⟩

theorem witness_HostLines :
    (let s := atLine (.wr 0x0A8 (.const 1)) []
     s.turns = .program :: [] ∧ s.host.halted = false ∧
      s.host.program[s.host.line]? = some (.wr 0x0A8 (.const 1)) ∧
      faultOf (hostTurn (.write 32 0x0A8 1) s.pastTurn) = none) ∧
    (let s := atLine (.wr 0x0EC (.var ⟨1, 0⟩)) [(⟨1, 0⟩, 2)]
     s.host.program[s.host.line]? = some (.wr 0x0EC (.var ⟨1, 0⟩)) ∧ lookupVar ⟨1, 0⟩ s.host.vars = some 2 ∧
      faultOf (hostTurn (.write 32 0x0EC 2) s.pastTurn) = none) ∧
    (let s := atLine (.rd ⟨1, 0⟩ 0x004) []
     s.host.program[s.host.line]? = some (.rd ⟨1, 0⟩ 0x004) ∧
      faultOf (hostTurn (.read 32 0x004) s.pastTurn) = none) ∧
    (let s := atLine (.assign ⟨1, 0⟩ (.const 1)) []
     s.host.program[s.host.line]? = some (.assign ⟨1, 0⟩ (.const 1)) ∧
      (nextOf (step s)).host.line = 1) := by decide

theorem witness_HostLines_next :
    (∃ t, hostTurn (.write 32 0x0A8 1) (atLine (.wr 0x0A8 (.const 1)) []).pastTurn = .next t) ∧
    (∃ t, hostTurn (.read 32 0x004) (atLine (.rd ⟨1, 0⟩ 0x004) []).pastTurn = .next t) ∧
    (∃ t, step (atLine (.assign ⟨1, 0⟩ (.const 1)) []) = .next t) := ⟨⟨_, rfl⟩, ⟨_, rfl⟩, ⟨_, rfl⟩⟩

theorem witness_HaltEndsARun :
    (ready.phase = .idle ∧ ready.turns = []) ∧
    (let s := atLine .halt []
     s.phase = .idle ∧ s.faulted = none ∧ s.host.halted = false ∧ s.turns = .program :: [] ∧
      s.host.program[s.host.line]? = some .halt) := by decide

/-- The invariant holds in a state with a request outstanding at index 0 of 3. -/
theorem witness_EveryStepKeepsTheInvariant :
    (let s := { inPhase .kdfWait with
       progressEn := true, aesContext := some (Buf.ofBytes seedA).bytes, turns := [.access (.write 32 0x008 0)] }
     s.Inv ∧ ∃ t, step s = .next t) := by
  refine ⟨⟨by decide, by decide, ?_, by decide, by decide, by decide, ?_, by decide⟩, ⟨_, rfl⟩⟩
  · intro i hi; cases hi; decide
  · intro _; rfl

end Sys2Proof.Tests
end

/-! The failure draws (R11, R15). -/

namespace Sys2Proof.Machine

/-- R11: an engine that cannot fail answers ok to every draw, listed or free. -/
@[simp] theorem drawAnswer_cannotFail (s : State) : drawAnswer false s = true := by
  unfold drawAnswer
  split
  · rfl
  · rfl

/-- R11: a listed draw is ok when it says so, or when the engine cannot fail. -/
theorem drawAnswer_cons (canFail d : Bool) (s : State) (ds : List Bool) (h : s.draws = d :: ds) :
    drawAnswer canFail s = (d || !canFail) := by
  cases d with
  | true => simpa using drawAnswer_ok canFail s ds h
  | false => simpa using drawAnswer_fail canFail s ds h

/-- Settles O38: the free draw enters only where the list of coming draws is empty and the engine can fail. -/
theorem drawsAnswer : Obligations.DrawsAnswer :=
  ⟨drawAnswer_cannotFail, fun canFail d s ds h => ⟨drawAnswer_cons canFail d s ds h, drawTaken_cons s d ds h⟩⟩

end Sys2Proof.Machine

/-! The invariant of the block (R27, R37, R50, R164 to R166, R204): which states meet it. -/

namespace Sys2Proof.Machine

/-- The invariant speaks of the block's registers alone: FAULTED, the host agent, the returned word and the turns are free. -/
theorem State.Inv.frame {s : State} (h : s.Inv) (faulted : Option HostFault) (host : HostState) (readData : Word)
    (turns : List Turn) :
    State.Inv { s with faulted := faulted, host := host, readData := readData, turns := turns } :=
  { h with }

/-- While IDLE the invariant asks for one thing: there is no AES context. -/
theorem inv_of_idle {s : State} (hp : s.phase = .idle) (hc : s.aesContext = none) : s.Inv where
  resultWhileBusy hb := by simp [hp, Phase.busy] at hb
  cmdErrWhileBusy hb := by simp [hp, Phase.busy] at hb
  operands i hi := by simp [hp, Phase.running] at hi
  roundBound hl := by simp [hp, Phase.inLoop] at hl
  roundPending hw := by simp [hp] at hw
  request hw := by simp [hp] at hw
  contextInLoop hl := by simp [hp, Phase.inLoop] at hl
  contextOutside _ := hc

/-- An operation meets the invariant in its first phase. -/
theorem inv_of_begun {s : State} {i : Instr} (hrun : s.phase.running = some i) (hl : s.phase.inLoop = false)
    (hres : s.result = .ok) (herr : s.cmdErr = false) (hv : operandsValid i s = true) (hc : s.aesContext = none) :
    s.Inv where
  resultWhileBusy _ := hres
  cmdErrWhileBusy _ := herr
  operands j hj := by
    obtain rfl : i = j := by simpa [hrun] using hj
    exact hv
  roundBound h := by simp [hl] at h
  roundPending h := by rcases h with h | h <;> simp [h, Phase.inLoop] at hl
  request h := by simp [h, Phase.inLoop] at hl
  contextInLoop h := by simp [hl] at h
  contextOutside _ := hc

theorem Phase.busy_of_inLoop {p : Phase} (h : p.inLoop = true) : p.busy = true := by
  cases p <;> simp_all [Phase.busy, Phase.inLoop]

theorem Phase.running_of_inLoop {p : Phase} (h : p.inLoop = true) : p.running = some .aeskdfTransform := by
  cases p <;> simp_all [Phase.running, Phase.inLoop]

/-- In the loop the invariant is the facts common to its three phases, and what a pending round and an outstanding
request add. -/
theorem inv_iff_of_inLoop {s : State} (hl : s.phase.inLoop = true) :
    s.Inv ↔ s.result = .ok ∧ s.cmdErr = false ∧ operandsValid .aeskdfTransform s = true ∧
      s.aesContext = some s.kdfSeed.bytes ∧ s.roundIndex.toNat ≤ (roundCount s).toNat ∧
      (s.phase = .kdfWait ∨ s.phase = .kdfRound → s.roundIndex.toNat < (roundCount s).toNat) ∧
      (s.phase = .kdfWait →
        s.progIndex = s.roundIndex ∧ s.progressEn = true ∧ s.roundIndex.toNat % Config.progressInterval = 0) := by
  have hb := Phase.busy_of_inLoop hl
  have hr := Phase.running_of_inLoop hl
  constructor
  · intro h
    exact ⟨h.resultWhileBusy hb, h.cmdErrWhileBusy hb, h.operands _ hr, h.contextInLoop hl, h.roundBound hl,
      h.roundPending, h.request⟩
  · rintro ⟨hres, herr, hv, hc, hn, hpend, hreq⟩
    refine ⟨fun _ => hres, fun _ => herr, fun i hi => ?_, fun _ => hn, hpend, hreq, fun _ => hc, fun ho => ?_⟩
    · obtain rfl : Instr.aeskdfTransform = i := by simpa [hr] using hi
      exact hv
    · simp [hl] at ho

/-- Settles O55: after reset the block is IDLE without an AES context. -/
theorem resetMeetsTheInvariant : Obligations.ResetMeetsTheInvariant := inv_of_idle rfl rfl

/-! Every step keeps the invariant: first each of the operations a step is made of. -/

/-- R204: the issue of a command. -/
theorem accept_inv {s : State} {i : Instr} {first : Phase} (hs : s.Inv) (hp : s.phase = .idle)
    (hrun : first.running = some i) (hl : first.inLoop = false) : (accept i first s).Inv := by
  have hc : s.aesContext = none := hs.contextOutside (by simp [hp, Phase.inLoop])
  rcases accept_cases i first s with ⟨-, h⟩ | ⟨hv, h⟩ <;> rw [h]
  · exact inv_of_idle hp hc
  · exact inv_of_begun (s := { s with result := .ok, cmdErr := false, phase := first }) hrun hl rfl rfl hv hc

/-- R163: the loop begins at round 0, with the context of KDF_SEED. -/
theorem kdfConstruct_inv {s : State} (canFail : Bool) (hs : s.Inv) (hp : s.phase = .kdfInit) :
    (kdfConstruct canFail s).Inv := by
  rcases kdfConstruct_cases canFail s with ⟨-, h⟩ | ⟨-, h⟩ <;> rw [h]
  · have hb : s.phase.busy = true := by simp [hp, Phase.busy]
    have hv := hs.operands .aeskdfTransform (by simp [hp, Phase.running])
    rw [operandsValid_aeskdf] at hv
    rw [inv_iff_of_inLoop rfl, operandsValid_aeskdf]
    simp [hs.resultWhileBusy hb, hs.cmdErrWhileBusy hb, hv]
  · exact inv_of_idle rfl rfl

/-- R165: round I is at most `N`, so past the bound check it is below `N`. -/
theorem kdfConsider_inv {s : State} (hs : s.Inv) (hp : s.phase = .kdfCheck) : (kdfConsider s).Inv := by
  have hl : s.phase.inLoop = true := by rw [hp]; rfl
  obtain ⟨hres, herr, hv, hc, hn, -, -⟩ := (inv_iff_of_inLoop hl).1 hs
  have hlt (hne : s.roundIndex ≠ roundCount s) : s.roundIndex.toNat < (roundCount s).toNat :=
    lt_of_le_of_ne hn (mt BitVec.eq_of_toNat_eq hne)
  rcases kdfConsider_cases s with ⟨-, h⟩ | ⟨hne, hen, hcad, h⟩ | ⟨hne, -, h⟩ <;> rw [h]
  · exact inv_of_idle rfl rfl
  · exact (inv_iff_of_inLoop rfl).2
      ⟨hres, herr, hv, hc, hn, fun _ => hlt hne, fun _ => ⟨rfl, hen, (atCadence_iff _).1 hcad⟩⟩
  · exact (inv_iff_of_inLoop rfl).2 ⟨hres, herr, hv, hc, hn, fun _ => hlt hne, by simp⟩

/-- R169: the pending round is below `N`, so the next one is at most `N`; the new key is valid. -/
theorem kdfApply_inv {s : State} (enc : WordBytes 8 → WordBytes 4 → WordBytes 4) (canFail : Bool) (hs : s.Inv)
    (hp : s.phase = .kdfRound) : (kdfApply enc canFail s).Inv := by
  have hl : s.phase.inLoop = true := by rw [hp]; rfl
  obtain ⟨hres, herr, hv, hc, -, hlt, -⟩ := (inv_iff_of_inLoop hl).1 hs
  rcases kdfApply_cases enc canFail s with ⟨-, h⟩ | ⟨-, h⟩ <;> rw [h]
  · have hnext : (s.roundIndex + 1).toNat ≤ (roundCount s).toNat := by
      have := hlt (.inr hp)
      bv_omega
    rw [operandsValid_aeskdf] at hv
    rw [inv_iff_of_inLoop rfl, operandsValid_aeskdf]
    simpa [hres, herr, hv, hc, roundCount] using hnext
  · exact inv_of_idle rfl rfl

/-- R167, R168: the answer to a request for a round below `N`. -/
theorem answerRequest_inv {s : State} (v : Word) (hs : s.Inv) (hp : s.phase = .kdfWait) : (answerRequest v s).Inv := by
  have hl : s.phase.inLoop = true := by rw [hp]; rfl
  obtain ⟨hres, herr, hv, hc, hn, hlt, -⟩ := (inv_iff_of_inLoop hl).1 hs
  rcases answerRequest_cases v s with ⟨-, h⟩ | ⟨-, h⟩ <;> rw [h]
  · exact (inv_iff_of_inLoop rfl).2 ⟨hres, herr, hv, hc, hn, fun _ => hlt (.inl hp), by simp⟩
  · exact inv_of_idle rfl rfl

/-- Every step of a command keeps the invariant. -/
theorem exec_inv {i : Instr} {s t : State} (hs : s.Inv) (h : exec i s = .next t) : t.Inv := by
  have outside (hl : s.phase.inLoop = false) : s.aesContext = none := hs.contextOutside hl
  rcases exec_cases h with ⟨hp, first, -, hrun, hl, rfl⟩ | ⟨hp, -, rfl⟩ | ⟨hp, -, rfl⟩ | ⟨hp, -, rfl⟩ | ⟨hp, -, rfl⟩ |
    ⟨-, -, rfl⟩ | ⟨hp, -, rfl⟩ | ⟨-, -, rfl⟩
  · exact accept_inv hs hp hrun hl
  · exact inv_of_idle rfl (outside (by rw [hp]; rfl))
  · exact inv_of_idle rfl (outside (by rw [hp]; rfl))
  · exact kdfConstruct_inv _ hs hp
  · exact kdfConsider_inv hs hp
  · exact hs
  · exact kdfApply_inv _ _ hs hp
  · exact hs.frame _ _ _ _

/-- Every host access keeps the invariant: outside PROG_RESP, a write that changes a register happens while IDLE. -/
theorem hostAccess_inv {a : Access} {s t : State} (hs : s.Inv) (h : hostAccess a s = .next t) : t.Inv := by
  have idle (hp : s.phase = .idle) : s.aesContext = none := hs.contextOutside (by rw [hp]; rfl)
  rcases hostAccess_cases h with ⟨_, -, rfl⟩ | ⟨_, -, -, rfl⟩ | ⟨_, _, _, _, -, -, hp, -, rfl⟩ |
    ⟨_, _, _, i, -, -, -, -, hx⟩ | ⟨_, _, v, -, -, hp, rfl⟩ | ⟨_, _, _, -, -, hp, -, rfl⟩ |
    ⟨_, _, _, b, j, -, -, hp, -, rfl⟩
  · exact hs.frame _ _ _ _
  · exact hs.frame _ _ _ _
  · exact inv_of_idle hp (idle hp)
  · exact exec_inv hs hx
  · exact answerRequest_inv v hs hp
  · exact inv_of_idle hp (idle hp)
  · exact inv_of_idle (by simpa using hp) (by simpa using idle hp)

/-- Settles O56: by cases on what a step does, after the turn that takes place is past. -/
theorem everyStepKeepsTheInvariant : Obligations.EveryStepKeepsTheInvariant := by
  intro s t hs h
  have hpast : s.pastTurn.Inv := hs.frame _ _ _ _
  rcases step_cases h with ⟨_, rfl⟩ | ⟨i, -, hx⟩ | ⟨a, v, -, ha, _, rfl⟩ | ⟨-, rfl⟩
  · exact hpast.frame _ _ _ _
  · exact exec_inv hpast hx
  · exact (hostAccess_inv hpast ha).frame _ _ _ _
  · exact inv_of_idle rfl rfl

end Sys2Proof.Machine

/-! What the steps leave unchanged (R35, R47, R51, R53): first the frame of each operation a command's step is made of. -/

namespace Sys2Proof.Machine

/-- R11: a draw uses up an input and leaves the block alone. -/
theorem drawTaken_frame (s : State) :
    drawTaken s = { s with draws := (drawTaken s).draws, fresh := (drawTaken s).fresh } := by
  unfold drawTaken
  split <;> rfl

/-- R204: what the issue of a command can change. -/
theorem accept_frame {i : Instr} {first : Phase} {s t : State} (h : t = accept i first s) :
    t = { s with result := t.result, cmdErr := t.cmdErr, phase := t.phase, faulted := t.faulted } := by
  rcases accept_cases i first s with ⟨-, e⟩ | ⟨-, e⟩ <;>
    (rw [e] at h; subst h; rfl)

/-- R163: what the engine construction can change. -/
theorem kdfConstruct_frame {canFail : Bool} {s t : State} (h : t = kdfConstruct canFail s) :
    t = { s with
      kdfKey := t.kdfKey, result := t.result, phase := t.phase, roundIndex := t.roundIndex,
      aesContext := t.aesContext, draws := t.draws, fresh := t.fresh } := by
  rcases kdfConstruct_cases canFail s with ⟨-, e⟩ | ⟨-, e⟩ <;>
    (rw [e, drawTaken_frame s] at h; subst h; rfl)

/-- R165: what the round check can change. -/
theorem kdfConsider_frame {s t : State} (h : t = kdfConsider s) :
    t = { s with
      progIndex := t.progIndex, result := t.result, phase := t.phase, aesContext := t.aesContext } := by
  rcases kdfConsider_cases s with ⟨-, e⟩ | ⟨-, -, -, e⟩ | ⟨-, -, e⟩ <;>
    (rw [e] at h; subst h; rfl)

/-- R169: what a round can change. -/
theorem kdfApply_frame {enc : WordBytes 8 → WordBytes 4 → WordBytes 4} {canFail : Bool} {s t : State}
    (h : t = kdfApply enc canFail s) :
    t = { s with
      kdfKey := t.kdfKey, result := t.result, phase := t.phase, roundIndex := t.roundIndex,
      aesContext := t.aesContext, draws := t.draws, fresh := t.fresh } := by
  rcases kdfApply_cases enc canFail s with ⟨-, e⟩ | ⟨-, e⟩ <;>
    (rw [e, drawTaken_frame s] at h; subst h; rfl)

/-- R53: what a step of SALSA20_BLOCK or CHACHA20_BLOCK can change. -/
theorem exec_block_frame {i : Instr} {s t : State} (hi : i ≠ .aeskdfTransform) (h : exec i s = .next t) :
    t = { s with
      out := t.out, result := t.result, cmdErr := t.cmdErr, phase := t.phase,
      stateX := t.stateX, stateW := t.stateW, faulted := t.faulted } := by
  rcases exec_cases h with ⟨-, _, -, -, -, ht⟩ | ⟨-, -, rfl⟩ | ⟨-, -, rfl⟩ | ⟨-, rfl, -⟩ | ⟨-, rfl, -⟩ |
    ⟨-, rfl, -⟩ | ⟨-, rfl, -⟩ | ⟨-, -, rfl⟩
  · have hf := accept_frame ht
    rw [congrArg State.out hf, congrArg State.stateX hf, congrArg State.stateW hf]
    exact hf
  · rfl
  · rfl
  · exact absurd rfl hi
  · exact absurd rfl hi
  · exact absurd rfl hi
  · exact absurd rfl hi
  · rfl

/-- R53: what a step of AESKDF_TRANSFORM can change. -/
theorem exec_aeskdf_frame {s t : State} (h : exec .aeskdfTransform s = .next t) :
    t = { s with
      kdfKey := t.kdfKey, progIndex := t.progIndex, result := t.result, cmdErr := t.cmdErr, phase := t.phase,
      roundIndex := t.roundIndex, aesContext := t.aesContext, faulted := t.faulted,
      draws := t.draws, fresh := t.fresh } := by
  rcases exec_cases h with ⟨-, _, -, -, -, ht⟩ | ⟨-, hi, -⟩ | ⟨-, hi, -⟩ | ⟨-, -, ht⟩ | ⟨-, -, ht⟩ |
    ⟨-, -, rfl⟩ | ⟨-, -, ht⟩ | ⟨-, -, rfl⟩
  · have hf := accept_frame ht
    rw [congrArg State.kdfKey hf, congrArg State.progIndex hf, congrArg State.roundIndex hf,
      congrArg State.aesContext hf, congrArg State.draws hf, congrArg State.fresh hf]
    exact hf
  · cases hi
  · cases hi
  · have hf := kdfConstruct_frame ht
    rw [congrArg State.progIndex hf, congrArg State.cmdErr hf, congrArg State.faulted hf]
    exact hf
  · have hf := kdfConsider_frame ht
    rw [congrArg State.kdfKey hf, congrArg State.cmdErr hf, congrArg State.roundIndex hf,
      congrArg State.faulted hf, congrArg State.draws hf, congrArg State.fresh hf]
    exact hf
  · rfl
  · have hf := kdfApply_frame ht
    rw [congrArg State.progIndex hf, congrArg State.cmdErr hf, congrArg State.faulted hf]
    exact hf
  · rfl

/-- Settles O24: the frames of the two block operations and of the key derivation. -/
theorem inputsAreNeverWritten : Obligations.InputsAreNeverWritten := by
  intro s t
  refine ⟨?_, exec_aeskdf_frame⟩
  rintro (h | h)
  · exact exec_block_frame (by decide) h
  · exact exec_block_frame (by decide) h

/-- R51, R236: an ENGINE step raises no host fault and clears none. -/
theorem exec_running_faulted {i : Instr} {s t : State} (hr : s.phase.running = some i) (h : exec i s = .next t) :
    t.faulted = s.faulted := by
  rcases exec_cases h with ⟨hp, -⟩ | ⟨-, -, rfl⟩ | ⟨-, -, rfl⟩ | ⟨-, -, ht⟩ | ⟨-, -, ht⟩ | ⟨-, -, rfl⟩ |
    ⟨-, -, ht⟩ | ⟨hne, -⟩
  · simp [hp, Phase.running] at hr
  · rfl
  · rfl
  · exact (congrArg State.faulted (kdfConstruct_frame ht) :)
  · exact (congrArg State.faulted (kdfConsider_frame ht) :)
  · rfl
  · exact (congrArg State.faulted (kdfApply_frame ht) :)
  · exact absurd hr hne

/-- Settles O21: where FAULTED is set there is no HOST step, and no other step touches it. -/
theorem faultedIsNeverCleared : Obligations.FaultedIsNeverCleared := by
  refine ⟨fun s code => raise_faulted code s, fun s t code hf h => ?_⟩
  have keep : t.faulted = s.faulted := by
    rcases step_cases h with ⟨_, rfl⟩ | ⟨i, hr, hx⟩ | ⟨_, _, hclear, -⟩ | ⟨-, rfl⟩
    · rfl
    · exact exec_running_faulted (s := s.pastTurn) hr hx
    · simp [hclear] at hf
    · rfl
  have ht : t.faulted = some code := keep.trans hf
  exact ⟨ht, fun ⟨_, _, hclear⟩ => by simp [hclear] at ht⟩

/-- R47: OUT changes in a command's step only by the completion of a block operation. -/
theorem exec_out {i : Instr} {s t : State} (h : exec i s = .next t) :
    t.out = s.out ∨
      ((s.phase = .salsaRun ∨ s.phase = .chachaRun) ∧ t.phase = .idle ∧ t.out.valid = true) := by
  by_cases hi : i = .aeskdfTransform
  · subst hi
    exact .inl (congrArg State.out (exec_aeskdf_frame h) :)
  rcases exec_cases h with ⟨-, _, -, -, -, ht⟩ | ⟨hp, -, rfl⟩ | ⟨hp, -, rfl⟩ | ⟨-, ha, -⟩ | ⟨-, ha, -⟩ | ⟨-, ha, -⟩ |
    ⟨-, ha, -⟩ | ⟨-, -, rfl⟩
  · exact .inl (congrArg State.out (accept_frame ht) :)
  · exact .inr ⟨.inl hp, rfl, Buf.valid_ofBytes _⟩
  · exact .inr ⟨.inr hp, rfl, Buf.valid_ofBytes _⟩
  · exact absurd ha hi
  · exact absurd ha hi
  · exact absurd ha hi
  · exact absurd ha hi
  · exact .inl rfl

/-- R35, R166: PROG_INDEX changes in a command's step only where a progress request is raised. -/
theorem exec_progIndex {i : Instr} {s t : State} (h : exec i s = .next t) :
    t.progIndex = s.progIndex ∨
      (s.phase = .kdfCheck ∧ t.phase = .kdfWait ∧ s.progressEn = true ∧ t.progIndex = s.roundIndex ∧
        s.roundIndex.toNat % 100000 = 0) := by
  rcases exec_cases h with ⟨-, _, -, -, -, ht⟩ | ⟨-, -, rfl⟩ | ⟨-, -, rfl⟩ | ⟨-, -, ht⟩ | ⟨hp, -, rfl⟩ | ⟨-, -, rfl⟩ |
    ⟨-, -, ht⟩ | ⟨-, -, rfl⟩
  · exact .inl (congrArg State.progIndex (accept_frame ht) :)
  · exact .inl rfl
  · exact .inl rfl
  · exact .inl (congrArg State.progIndex (kdfConstruct_frame ht) :)
  · rcases kdfConsider_cases s with ⟨-, hc⟩ | ⟨-, hen, hcad, hc⟩ | ⟨-, -, hc⟩ <;> rw [hc]
    · exact .inl rfl
    · exact .inr ⟨hp, rfl, hen, rfl, (atCadence_iff _).1 hcad⟩
    · exact .inl rfl
  · exact .inl rfl
  · exact .inl (congrArg State.progIndex (kdfApply_frame ht) :)
  · exact .inl rfl

/-- R34, R206: what the answer to a progress request can change. -/
theorem answerRequest_frame {v : Word} {s t : State} (h : t = answerRequest v s) :
    t = { s with result := t.result, phase := t.phase, aesContext := t.aesContext } := by
  rcases answerRequest_cases v s with ⟨-, e⟩ | ⟨-, e⟩ <;>
    (rw [e] at h; subst h; rfl)

/-- R47, R35: a host access changes neither OUT nor PROG_INDEX: both are read-only, and a command it issues only
begins. -/
theorem hostAccess_out_progIndex {a : Access} {s t : State} (h : hostAccess a s = .next t) :
    t.out = s.out ∧ t.progIndex = s.progIndex := by
  rcases hostAccess_cases h with ⟨_, -, rfl⟩ | ⟨_, -, -, rfl⟩ | ⟨_, _, _, _, -, -, -, -, rfl⟩ |
    ⟨_, _, _, i, -, -, hp, -, hx⟩ | ⟨_, _, v, -, -, -, ht⟩ | ⟨_, _, _, -, -, -, -, rfl⟩ |
    ⟨_, _, _, b, j, -, -, -, hb, rfl⟩
  · exact ⟨rfl, rfl⟩
  · exact ⟨rfl, rfl⟩
  · exact ⟨rfl, rfl⟩
  · exact ⟨(exec_out hx).resolve_right (by simp [hp]), (exec_progIndex hx).resolve_right (by simp [hp])⟩
  · have hf := answerRequest_frame ht
    exact ⟨(congrArg State.out hf :), (congrArg State.progIndex hf :)⟩
  · exact ⟨rfl, rfl⟩
  · exact ⟨buf_setBuf_other s b .out _ hb.symm, setBuf_progIndex ..⟩

/-- Settles O50: of the steps that are not the reset event, a command's alone can change OUT. -/
theorem outChangesOnlyByCompletion : Obligations.OutChangesOnlyByCompletion := by
  intro s t h hne
  rcases step_cases h with ⟨_, rfl⟩ | ⟨i, -, hx⟩ | ⟨a, v, -, ha, _, rfl⟩ | ⟨hreset, -⟩
  · exact absurd rfl hne
  · exact .inr ((exec_out hx).resolve_left hne)
  · exact absurd (hostAccess_out_progIndex ha).1 hne
  · exact .inl hreset

/-- Settles O51: of the steps that are not the reset event, a command's alone can change PROG_INDEX. -/
theorem progIndexChangesOnlyByRequest : Obligations.ProgIndexChangesOnlyByRequest := by
  intro s t h hne
  rcases step_cases h with ⟨_, rfl⟩ | ⟨i, -, hx⟩ | ⟨a, v, -, ha, _, rfl⟩ | ⟨hreset, -⟩
  · exact absurd rfl hne
  · exact .inr ((exec_progIndex hx).resolve_left hne)
  · exact absurd (hostAccess_out_progIndex ha).2 hne
  · exact .inl hreset

end Sys2Proof.Machine

/-! The register window (R54, R70), and the control registers STATUS, KDF_CTRL and PROG_RESP (R30, R33, R34). -/

namespace Sys2Proof.Machine

/-- R54: an offset outside a buffer's words. -/
theorem slotInBuf_eq_none_iff (off : Nat) (b : BufName) :
    slotInBuf off b = none ↔ ¬(b.base ≤ off ∧ off < b.base + 4 * b.words) := by
  unfold slotInBuf
  split <;> simp_all

/-- R54: an unmapped offset lies past the six control words and in no buffer. -/
theorem slotAt_eq_none {off : Nat} (h : slotAt off = none) :
    0x018 ≤ off ∧ ∀ b ∈ BufName.all, ¬(b.base ≤ off ∧ off < b.base + 4 * b.words) := by
  unfold slotAt at h
  split_ifs at h
  exact ⟨by omega, fun b hb => (slotInBuf_eq_none_iff off b).1 (List.findSome?_eq_none_iff.1 h b hb)⟩

/-- R70: the unmapped offsets are the three gaps of the map. -/
theorem slotAt_eq_none_iff (off : Nat) :
    slotAt off = none ↔ (0x020 ≤ off ∧ off < 0x040) ∨ (0x0F0 ≤ off ∧ off < 0x100) ∨ 0x140 ≤ off := by
  refine ⟨fun h => ?_, slotAt_unmapped⟩
  obtain ⟨hctrl, hbuf⟩ := slotAt_eq_none h
  simp only [BufName.all, List.forall_mem_cons, BufName.base, BufName.words] at hbuf
  omega

/-- Settles O7: every register word stands at its own offset, and the map has three gaps. -/
theorem registerMap : Obligations.RegisterMap :=
  ⟨rfl, rfl, rfl, rfl, rfl, rfl,
    fun j => slotAt_offset (.buf .kdfRounds j), fun j => slotAt_offset (.buf .kdfSeed j),
    fun j => slotAt_offset (.buf .kdfKey j), fun j => slotAt_offset (.buf .sKey j),
    fun j => slotAt_offset (.buf .sIv j), fun j => slotAt_offset (.buf .sCtr j),
    fun j => slotAt_offset (.buf .sConst j), fun j => slotAt_offset (.buf .cKey j),
    fun j => slotAt_offset (.buf .cNonce j), fun j => slotAt_offset (.buf .cCtr j),
    fun j => slotAt_offset (.buf .out j), slotAt_eq_none_iff, fun _ _ => offset_of_slotAt⟩

/-! A host access where FAULTED is clear (R200, R201). -/

/-- R236: an access that fails a check of R201. -/
theorem hostTurn_error {a : Access} {s : State} {code : HostFault} (hf : s.faulted = none)
    (h : admission a s = .error code) : hostTurn a s = .next { s with faulted := some code } := by
  rw [hostTurn_clear hf, hostAccess, h]
  rfl

/-- R201: an access that passes the checks of R201. -/
theorem hostTurn_ok {a : Access} {s : State} {slot : Slot} (hf : s.faulted = none)
    (h : admission a s = .ok slot) : hostTurn a s = performAccess a slot s := by
  rw [hostTurn_clear hf, hostAccess, h]

/-- R63, R69: every register word's offset is aligned and fits an offset word. -/
theorem Slot.offset_aligned (slot : Slot) : slot.offset < 2 ^ 32 ∧ slot.offset % 4 = 0 := by
  cases slot with
  | buf b j => exact bufOffset_aligned b j
  | _ => exact ⟨by decide, rfl⟩

/-- A 32-bit access at a register word's own offset passes checks 1 and 2 of R201; the other checks decide. -/
theorem admission_at {a : Access} (s : State) (slot : Slot) (hw : a.width = 32)
    (ho : a.off = BitVec.ofNat 32 slot.offset) : admission a s = admissionOf a slot s := by
  obtain ⟨hlt, halign⟩ := slot.offset_aligned
  have hnat : a.off.toNat = slot.offset := by rw [ho, BitVec.toNat_ofNat, Nat.mod_eq_of_lt hlt]
  exact admission_mapped hw (by rw [hnat, halign]) (by rw [hnat, slotAt_offset])

/-- R27, R231: RESULT code 3 is never produced. -/
theorem Result.code_ne_three (r : Result) : r.code ≠ 3 := by cases r <;> decide

/-- R30: where the four fields stand in the word that `statusWord` assembles. -/
theorem statusWord_fields (s : State) :
    (statusWord s).getLsbD 0 = s.phase.busy ∧ (statusWord s).getLsbD 1 = s.phase.progReq ∧
      (statusWord s).extractLsb' 2 2 = s.result.code ∧ (statusWord s).getLsbD 4 = s.cmdErr ∧
      (statusWord s).extractLsb' 5 27 = 0 := by
  unfold statusWord flagWord
  generalize s.phase.busy = b, s.phase.progReq = p, s.result.code = r, s.cmdErr = e
  revert b p r e
  decide

/-- R32: a read of STATUS is admitted in every phase. -/
theorem admission_readStatus (s : State) : admission (.read 32 0x004) s = .ok .status := by
  rw [admission_at s .status rfl rfl]
  simp [admissionOf, Access.isRead, Slot.writeOnly, Access.allowedWhileBusy, slotReadable, ctrlWriteLegal]

/-- Settles O14: the word read is `statusWord`, whose fields are those of R30. -/
theorem statusReadReturnsTheFlags : Obligations.StatusReadReturnsTheFlags := by
  intro s hf
  obtain ⟨hbusy, hreq, hres, herr, hzero⟩ := statusWord_fields s
  refine ⟨statusWord s, hostTurn_ok hf (admission_readStatus s), hbusy, hreq, hres, herr, hzero, ?_, ?_⟩
  · rw [hres]
    exact s.result.code_ne_three
  · rw [hbusy, hreq]
    cases s.phase <;> decide

/-- R201, R205: KDF_CTRL is written while IDLE, with bits 31:1 clear. -/
theorem admission_writeKdfCtrl (s : State) (v : Word) :
    admission (.write 32 0x00C v) s =
      if s.phase.busy then .error .hf5 else if !kdfCtrlLegal v then .error .hf9 else .ok .kdfCtrl := by
  rw [admission_at s .kdfCtrl rfl rfl]
  simp [admissionOf, Access.isRead, Slot.readOnly, Access.allowedWhileBusy, ctrlWriteLegal]

/-- R202: KDF_CTRL is read while IDLE. -/
theorem admission_readKdfCtrl {s : State} (h : s.phase = .idle) : admission (.read 32 0x00C) s = .ok .kdfCtrl := by
  rw [admission_at s .kdfCtrl rfl rfl]
  simp [h, Phase.busy, admissionOf, Access.isRead, Slot.writeOnly, slotReadable, ctrlWriteLegal]

/-- R33: the KDF_CTRL word is PROGRESS_EN. -/
theorem kdfCtrlWord_eq (s : State) : kdfCtrlWord s = if s.progressEn then 1 else 0 := by
  unfold kdfCtrlWord flagWord
  cases s.progressEn <;> rfl

/-- Settles O17: what the checks of R201 let through to KDF_CTRL. -/
theorem kdfCtrlRegister : Obligations.KdfCtrlRegister := by
  refine ⟨rfl, fun s v hf => ⟨fun hi hv => ?_, fun hi hv => ?_, fun hi => ?_, fun hb => ?_⟩⟩
  · exact hostTurn_error hf (by rw [admission_writeKdfCtrl]; simpa [hi, Phase.busy, kdfCtrlLegal] using hv)
  · have hadm : admission (.write 32 0x00C v) s = .ok .kdfCtrl := by
      rw [admission_writeKdfCtrl]; simp [hi, Phase.busy, kdfCtrlLegal, hv]
    exact hostTurn_ok hf hadm
  · rw [hostTurn_ok hf (admission_readKdfCtrl hi), ← kdfCtrlWord_eq]
    rfl
  · exact hostTurn_error hf (by rw [admission_writeKdfCtrl]; simp [hb, Phase.busy])

/-- R34: PROG_RESP is write-only. -/
theorem admission_readProgResp (s : State) : admission (.read 32 0x008) s = .error .hf3 := by
  rw [admission_at s .progResp rfl rfl]
  rfl

/-- R206: PROG_RESP is written while a progress request is outstanding. -/
theorem admission_writeProgResp (s : State) (v : Word) :
    admission (.write 32 0x008 v) s = if s.phase = .kdfWait then .ok .progResp else .error .hf8 := by
  rw [admission_at s .progResp rfl rfl]
  simp [admissionOf, Access.isRead, Slot.readOnly, Access.allowedWhileBusy, Phase.progReq, ctrlWriteLegal]

/-- Settles O18: an admitted write of PROG_RESP is the answer to the request. -/
theorem progRespRegister : Obligations.ProgRespRegister := by
  intro s v hf
  have answer (hw : s.phase = .kdfWait) : hostTurn (.write 32 0x008 v) s = .next (answerRequest v s) := by
    have hadm : admission (.write 32 0x008 v) s = .ok .progResp := by rw [admission_writeProgResp, if_pos hw]
    exact hostTurn_ok hf hadm
  refine ⟨hostTurn_error hf (admission_readProgResp s), fun hw => ?_, fun hw hv => ?_, fun hw hv => ?_⟩
  · exact hostTurn_error hf (by rw [admission_writeProgResp, if_neg hw])
  · rw [answer hw, answerRequest, if_pos hv]
  · rw [answer hw, answerRequest, if_neg hv]
    rfl

/-! The step and the command it runs (R22, R72, R204). -/

/-- R31, R204: CMD is written while IDLE. -/
theorem admission_writeCmd {s : State} (v : Word) (h : s.phase = .idle) :
    admission (.write 32 0x000 v) s = .ok .cmd := by
  rw [admission_at s .cmd rfl rfl]
  simp [h, Phase.busy, admissionOf, Access.isRead, Slot.readOnly, ctrlWriteLegal]

/-- R72: a step is the first of the turns to come, which is then past. -/
theorem step_cons {s : State} {turn : Turn} {rest : List Turn} (h : s.turns = turn :: rest) :
    step s = takeTurn turn s.pastTurn := by
  simp [step, nextStep, h]

/-- R204: the host's write to CMD of a command's word, while IDLE with FAULTED clear, is the next step of the command. -/
theorem step_writeCmd {s : State} {i : Instr} {w : Word} {rest : List Turn} (hp : s.phase = .idle)
    (hf : s.faulted = none) (ht : s.turns = .access (.write 32 0x000 w) :: rest) (hd : decode w = .ok i) :
    step s = exec i s.pastTurn := by
  have hadm := admission_writeCmd (s := s.pastTurn) w hp
  calc step s = hostTurn (.write 32 0x000 w) s.pastTurn := step_cons ht
    _ = issueCommand w s.pastTurn := hostTurn_ok (s := s.pastTurn) hf hadm
    _ = exec i s.pastTurn := by simp [issueCommand, hd]

/-- R22: an ENGINE turn is the next step of the command in progress. -/
theorem engineTurn_running {s : State} {i : Instr} (h : s.phase.running = some i) : engineTurn s = exec i s := by
  simp [engineTurn, h]

/-- With no turn left the ENGINE steps in every phase in which it has a step (R166, R207). -/
theorem unattended_running {s : State} {i : Instr} (h : s.phase.running = some i) (hw : s.phase ≠ .kdfWait) :
    unattended s = exec i s := by
  rw [← engineTurn_running h]
  unfold unattended
  split
  · next hp => exact absurd hp hw
  · next hp => simp [hp, Phase.running] at h
  all_goals rfl

/-- R63, R80: a row of the opcode table decodes as the word it stands for. -/
theorem decode_of_decodeTableWord {n w : Nat} {i : Instr} (h : decodeTableWord n w = some i) :
    decode (tableWord n w) = .ok i := by
  simp only [decodeTableWord, wordBytesList, decodeBytes, wordOf_byteOf] at h
  cases hd : decode (tableWord n w) <;> simp_all

/-- Settles O4: the turn that takes place, or with none left the ENGINE, runs the decoded command. -/
theorem stepRunsTheCommand : Obligations.StepRunsTheCommand := by
  intro s i
  refine ⟨fun w rest => step_writeCmd, fun rest hr ht => ?_, fun hr ht hw => ?_, fun n w hd => ?_⟩
  · rw [step_cons ht]
    exact engineTurn_running hr
  · rw [← unattended_running hr hw]
    simp [step, nextStep, ht]
  · exact step_writeCmd (s := s.withFetchWord n w) rfl rfl rfl (decode_of_decodeTableWord hd)

end Sys2Proof.Machine

/-! Command words and their bytes (R63, R80 to R82): `decode` and `encode` are inverse, on words and on lists of bytes. -/

namespace Sys2Proof

/-- R81: a word is made of its two fields. -/
@[simp] theorem wordOfFields_fieldsOf (w : Word) : wordOfFields (fieldsOf w) = w :=
  (BitVec.extractLsb'_append_extractLsb'_eq_extractLsb' rfl).trans BitVec.extractLsb'_eq_self

/-- R82: the command of an accepted word has that word's fields. -/
theorem fieldsOf_eq_of_decode {w : Word} {i : Instr} (h : decode w = .ok i) : fieldsOf w = fieldsOfInstr i := by
  have fields (op : BitVec 8) (hr : (fieldsOf w).rsvd = 0) (ho : (fieldsOf w).op = op) :
      fieldsOf w = { op := op, rsvd := 0 } := by rw [← hr, ← ho]
  simp only [decode] at h
  split_ifs at h with hr h1 h2 h3
  · cases h; exact fields _ (not_not.1 hr) h1
  · cases h; exact fields _ (not_not.1 hr) h2
  · cases h; exact fields _ (not_not.1 hr) h3

/-- R82: a command's word decodes to it. -/
@[simp] theorem decode_encode (i : Instr) : decode (encode i) = .ok i := by
  cases i
  · exact decode_salsa20Block
  · exact decode_chacha20Block
  · exact decode_aeskdfTransform

/-- R82: a word decodes to a command only if it is that command's word. -/
theorem decode_eq_ok_iff (w : Word) (i : Instr) : decode w = .ok i ↔ w = encode i := by
  refine ⟨fun h => ?_, fun h => h ▸ decode_encode i⟩
  rw [encode, ← fieldsOf_eq_of_decode h, wordOfFields_fieldsOf]

/-- R63, R80: the bytes of a word, at the front of a list, decode as the word does. -/
theorem decodeBytes_wordBytesList_append (w : Word) (rest : List Byte) :
    decodeBytes (wordBytesList w ++ rest) = (decode w).map fun i => (i, rest) := by
  simp only [wordBytesList, List.cons_append, List.nil_append, decodeBytes, wordOf_byteOf]
  cases decode w <;> rfl

/-- R63: four bytes are the bytes of the word they make up. -/
theorem wordBytesList_wordOf (b0 b1 b2 b3 : Byte) : wordBytesList (wordOf b0 b1 b2 b3) = [b0, b1, b2, b3] := by
  obtain ⟨h0, h1, h2, h3⟩ := byteOf_wordOf b0 b1 b2 b3
  rw [wordBytesList, h0, h1, h2, h3]

/-- R80: bytes that decode at all begin with the four bytes of a word. -/
theorem exists_word_of_decodeBytes {bs : List Byte} {r : Instr × List Byte} (h : decodeBytes bs = .ok r) :
    ∃ w rest, bs = wordBytesList w ++ rest := by
  match bs, h with
  | b0 :: b1 :: b2 :: b3 :: rest, _ => exact ⟨wordOf b0 b1 b2 b3, rest, by rw [wordBytesList_wordOf]; rfl⟩

/-- R63, R80, R82: the byte lists that decode to a command and a rest. -/
theorem decodeBytes_eq_ok_iff (bs : List Byte) (i : Instr) (rest : List Byte) :
    decodeBytes bs = .ok (i, rest) ↔ bs = encodeBytes i ++ rest := by
  constructor
  · intro h
    obtain ⟨w, tail, rfl⟩ := exists_word_of_decodeBytes h
    rw [decodeBytes_wordBytesList_append] at h
    cases hd : decode w with
    | error e => rw [hd] at h; cases h
    | ok j =>
      rw [hd] at h
      cases h
      rw [encodeBytes, ← (decode_eq_ok_iff w i).1 hd]
  · rintro rfl
    rw [encodeBytes, decodeBytes_wordBytesList_append, decode_encode]
    rfl

/-- Settles O3: the two directions of `decodeBytes_eq_ok_iff`. -/
theorem encodedBytesDecodeBack : Obligations.EncodedBytesDecodeBack := fun i rest =>
  ⟨(decodeBytes_eq_ok_iff _ i rest).2 rfl, fun bs => (decodeBytes_eq_ok_iff bs i rest).1⟩

end Sys2Proof

/-! Host accesses to the window (R63 to R72): the ones checks 1 and 2 of R201 refuse, reads, and operand words. -/

namespace Sys2Proof.Machine

/-- R64, R201 check 1. -/
theorem admission_misaligned {a : Access} (s : State) (h : a.width ≠ 32 ∨ a.off.toNat % 4 ≠ 0) :
    admission a s = .error .hf2 := by
  rw [admission, if_pos (by simpa using h)]

/-- R70, R201 check 2. -/
theorem admission_unmapped {a : Access} (s : State) (hw : a.width = 32) (h4 : a.off.toNat % 4 = 0)
    (hs : slotAt a.off.toNat = none) : admission a s = .error .hf1 := by
  simp [admission, hw, h4, hs]

/-- Settles O9: the offsets named are those at which `slotAt` has no register word. -/
theorem unmappedOffset : Obligations.UnmappedOffset := fun s _ hf hw h4 hoff =>
  hostTurn_error hf (admission_unmapped s hw h4 (slotAt_unmapped hoff))

/-- Settles O8: check 1 of R201 refuses the access. -/
theorem badWidthOrAlignment : Obligations.BadWidthOrAlignment := fun s _ hf hbad =>
  hostTurn_error hf (admission_misaligned s hbad)

/-- R67: a read raises its fault or returns its word. -/
theorem hostAccess_read_cases {a : Access} {s t : State} (hr : a.isRead = true) (h : hostAccess a s = .next t) :
    (∃ code, t = raise code s) ∨ ∃ v, t = { s with readData := v } := by
  obtain ⟨w, off, rfl⟩ : ∃ w off, a = .read w off := by
    cases a with
    | read w off => exact ⟨w, off, rfl⟩
    | write => cases hr
  unfold hostAccess at h
  split at h <;> cases h
  · exact .inl ⟨_, rfl⟩
  · exact .inr ⟨_, rfl⟩

/-- Settles O13: a refused read sets FAULTED, an admitted one `readData`. -/
theorem readsHaveNoSideEffect : Obligations.ReadsHaveNoSideEffect := by
  intro s t a hr h
  obtain ⟨-, ha⟩ := hostTurn_next h
  rcases hostAccess_read_cases hr ha with ⟨code, rfl⟩ | ⟨v, rfl⟩
  · rfl
  · rfl

/-- R201, R203: an operand word is written while IDLE. -/
theorem admission_writeBuf {s : State} {b : BufName} (j : Fin b.words) (v : Word) (hi : s.phase = .idle)
    (hb : b ≠ .out) : admission (.write 32 (BitVec.ofNat 32 (Slot.buf b j).offset) v) s = .ok (.buf b j) := by
  rw [admission_buf rfl rfl]
  simp [hi, hb, Phase.busy, admissionOf, Access.isRead, Slot.readOnly, ctrlWriteLegal]

/-- R201, R202: a buffer word is read while IDLE if it has been written. -/
theorem admission_readBuf {s : State} {b : BufName} (j : Fin b.words) (hi : s.phase = .idle) :
    admission (.read 32 (BitVec.ofNat 32 (Slot.buf b j).offset)) s =
      if (s.buf b).isWritten j then .ok (.buf b j) else .error .hf6 := by
  rw [admission_buf rfl rfl]
  cases hw : (s.buf b).isWritten j <;>
    simp [hi, hw, Phase.busy, admissionOf, Access.isRead, Slot.writeOnly, slotReadable, ctrlWriteLegal]

/-- R203: the write of an operand word sets that word of its buffer. -/
theorem hostTurn_writeBuf {s : State} {b : BufName} (j : Fin b.words) (v : Word) (hf : s.faulted = none)
    (hi : s.phase = .idle) (hb : b ≠ .out) :
    hostTurn (.write 32 (BitVec.ofNat 32 (Slot.buf b j).offset) v) s =
      .next (s.setBuf b ((s.buf b).setWord j v)) :=
  hostTurn_ok hf (admission_writeBuf j v hi hb)

/-- R202: the read of a written buffer word returns it. -/
theorem hostTurn_readBuf {s : State} {b : BufName} {j : Fin b.words} (hf : s.faulted = none)
    (hi : s.phase = .idle) (hw : (s.buf b).isWritten j = true) :
    hostTurn (.read 32 (BitVec.ofNat 32 (Slot.buf b j).offset)) s =
      .next { s with readData := (s.buf b).word j } :=
  hostTurn_ok hf (by rw [admission_readBuf j hi, if_pos hw])

/-- Settles O16: the write leaves the block IDLE and unfaulted, and the word written with its value. -/
theorem writeThenRead : Obligations.WriteThenRead := by
  intro s t b j v hf hi hb h
  rw [hostTurn_writeBuf j v hf hi hb] at h
  cases h
  rw [hostTurn_readBuf (by simpa using hf) (by simpa using hi) (by simp)]
  simp

end Sys2Proof.Machine

/-! What is fixed while BUSY (R65, R75, R276). -/

namespace Sys2Proof.Machine

/-- The registers that hold still while an operation runs: the operand registers other than KDF_KEY, and PROGRESS_EN. -/
def State.busyFixed (s : State) :
    (Buf 8 × Buf 2 × Buf 2 × Buf 4) × (Buf 8 × Buf 3 × Buf 1) × Buf 8 × Buf 2 × Bool :=
  ((s.sKey, s.sIv, s.sCtr, s.sConst), (s.cKey, s.cNonce, s.cCtr), s.kdfSeed, s.kdfRounds, s.progressEn)

/-- Equal `busyFixed` is equality of each of its registers. -/
theorem busyFixed_eq_iff (s t : State) :
    t.busyFixed = s.busyFixed ↔
      t.sKey = s.sKey ∧ t.sIv = s.sIv ∧ t.sCtr = s.sCtr ∧ t.sConst = s.sConst ∧
      t.cKey = s.cKey ∧ t.cNonce = s.cNonce ∧ t.cCtr = s.cCtr ∧
      t.kdfSeed = s.kdfSeed ∧ t.kdfRounds = s.kdfRounds ∧ t.progressEn = s.progressEn := by
  simp only [State.busyFixed, Prod.mk.injEq, and_assoc]

/-- R53: a command's step writes none of them. -/
theorem exec_busyFixed {i : Instr} {s t : State} (h : exec i s = .next t) : t.busyFixed = s.busyFixed := by
  by_cases hi : i = .aeskdfTransform
  · subst hi
    exact (congrArg State.busyFixed (exec_aeskdf_frame h) :)
  · exact (congrArg State.busyFixed (exec_block_frame hi h) :)

/-- R276: while BUSY no host access writes one of them; the writes that would are admitted while IDLE alone. -/
theorem hostAccess_busyFixed {a : Access} {s t : State} (hb : s.phase ≠ .idle) (h : hostAccess a s = .next t) :
    t.busyFixed = s.busyFixed := by
  rcases hostAccess_cases h with ⟨_, -, rfl⟩ | ⟨_, -, -, rfl⟩ | ⟨_, _, _, _, -, -, hi, -⟩ |
    ⟨_, _, _, i, -, -, hi, -⟩ | ⟨_, _, v, -, -, -, ht⟩ | ⟨_, _, _, -, -, hi, -⟩ | ⟨_, _, _, b, j, -, -, hi, -⟩
  · rfl
  · rfl
  · exact absurd hi hb
  · exact absurd hi hb
  · exact (congrArg State.busyFixed (answerRequest_frame ht) :)
  · exact absurd hi hb
  · exact absurd hi hb

/-- Settles O49: by cases on what a step other than the reset event does. -/
theorem operandsAreFixedWhileBusy : Obligations.OperandsAreFixedWhileBusy := by
  intro s t hb h hreset
  refine (busyFixed_eq_iff s t).1 ?_
  rcases step_cases h with ⟨_, rfl⟩ | ⟨i, -, hx⟩ | ⟨a, v, -, ha, _, rfl⟩ | ⟨hr, -⟩
  · rfl
  · exact exec_busyFixed (s := s.pastTurn) hx
  · exact hostAccess_busyFixed (s := s.pastTurn) (t := v) hb ha
  · exact absurd hr hreset

end Sys2Proof.Machine

/-! The command table (R81 to R83): the word of each command, and the words that are refused. -/

namespace Sys2Proof

/-- R82, R83: decoding refuses a word for its two fields alone: OP is unassigned or a reserved bit is set. -/
theorem decode_refuses_iff (w : Word) :
    (∃ e, decode w = .error e) ↔
      (fieldsOf w).op = 0 ∨ 4 ≤ (fieldsOf w).op.toNat ∨ (fieldsOf w).rsvd ≠ 0 := by
  simp only [decode]
  split_ifs with hr h1 h2 h3 h0
  · exact ⟨fun _ => .inr (.inr hr), fun _ => ⟨_, rfl⟩⟩
  · simp [h1, not_not.1 hr]
  · simp [h2, not_not.1 hr]
  · simp [h3, not_not.1 hr]
  · simp [h0]
  · have h4 : 4 ≤ (fieldsOf w).op.toNat := by bv_omega
    simp [h4]

/-- Settles O2: `decode` and `encode` are inverse, and a word is refused for its fields. -/
theorem decodeAcceptsExactlyTheTable : Obligations.DecodeAcceptsExactlyTheTable := fun w =>
  ⟨decode_eq_ok_iff w .salsa20Block, decode_eq_ok_iff w .chacha20Block, decode_eq_ok_iff w .aeskdfTransform,
    decode_refuses_iff w⟩

/-- Settles O1: the model's own three words of R82, and six words evaluated. -/
theorem commandWordsOfTheTable : Obligations.CommandWordsOfTheTable :=
  ⟨decode_salsa20Block, decode_chacha20Block, decode_aeskdfTransform, by decide⟩

end Sys2Proof

/-! The pseudo-instructions (R90): the lines `wrbuf` and `rdbuf` stand for, by the number of words. -/

namespace Sys2Proof.Machine

/-- R90: the offset of word `j + 1`, counted from the second word on. -/
theorem offset_add_four (off : Word) (j : Nat) :
    off + 4#32 + BitVec.ofNat 32 (4 * j) = off + BitVec.ofNat 32 (4 * j + 4) := by
  rw [BitVec.ofNat_add, BitVec.add_assoc, BitVec.add_comm 4#32]

/-- R90: `wrbuf` gives one line for each four bytes of its list, at successive offsets. -/
theorem wrbuf_eq_ofFn (off : Word) (n : Nat) (l : List Byte) (hl : l.length = 4 * n) :
    wrbuf off l = List.ofFn fun j : Fin n =>
      .wr (off + BitVec.ofNat 32 (4 * j.val))
        (.const (wordOf l[4 * j.val] l[4 * j.val + 1] l[4 * j.val + 2] l[4 * j.val + 3])) := by
  induction n generalizing off l with
  | zero => simp [List.length_eq_zero_iff.1 hl, wrbuf]
  | succ n ih =>
    match l, hl with
    | b0 :: b1 :: b2 :: b3 :: rest, hl =>
      have hrest : rest.length = 4 * n := by simpa [Nat.mul_succ] using hl
      rw [wrbuf, ih _ rest hrest, List.ofFn_succ]
      simp [offset_add_four, Nat.mul_succ]

/-- R90: `rdbuf` from index `j` on reads one word into each of the next variables, at successive offsets. -/
theorem rdbufFrom_eq_ofFn (t : Nat) (off : Word) (j n : Nat) :
    rdbufFrom t off j n = List.ofFn fun i : Fin n => .rd ⟨t, j + i.val⟩ (off + BitVec.ofNat 32 (4 * i.val)) := by
  induction n generalizing off j with
  | zero => rfl
  | succ n ih =>
    rw [rdbufFrom, ih, List.ofFn_succ]
    simp [offset_add_four, Nat.mul_succ, Nat.add_assoc, Nat.add_comm 1]

/-- Settles O53: `wrbuf` and `rdbuf` by the number of their words; the others are their tables. -/
theorem pseudoInstructionsExpand : Obligations.PseudoInstructionsExpand := by
  refine ⟨fun off n h => ?_, fun t off n => ?_, fun _ _ => rfl, rfl, rfl, rfl, rfl, rfl, fun _ _ => rfl, fun _ _ => rfl⟩
  · rw [wrbuf_eq_ofFn off n h.toList h.length_toList]
    simp [le32]
  · simp [rdbuf, rdbufFrom_eq_ofFn]

end Sys2Proof.Machine

/-! Host programs (R88, R89): the lines that make an access, and the lines that stay in the host. -/

namespace Sys2Proof.Machine

/-- R53: a command's step leaves the host agent alone. -/
theorem exec_host {i : Instr} {s t : State} (h : exec i s = .next t) : t.host = s.host := by
  by_cases hi : i = .aeskdfTransform
  · subst hi
    exact (congrArg State.host (exec_aeskdf_frame h) :)
  · exact (congrArg State.host (exec_block_frame hi h) :)

/-- R89: a host access leaves the host agent alone; what the host does with it is its program's line. -/
theorem hostAccess_host {a : Access} {s t : State} (h : hostAccess a s = .next t) : t.host = s.host := by
  rcases hostAccess_cases h with ⟨_, -, rfl⟩ | ⟨_, -, -, rfl⟩ | ⟨_, _, _, _, -, -, -, -, rfl⟩ |
    ⟨_, _, _, _, -, -, -, -, hx⟩ | ⟨_, _, _, -, -, -, ht⟩ | ⟨_, _, _, -, -, -, -, rfl⟩ | ⟨_, _, _, _, _, -, -, -, -, rfl⟩
  · rfl
  · rfl
  · rfl
  · exact exec_host hx
  · exact (congrArg State.host (answerRequest_frame ht) :)
  · rfl
  · exact setBuf_host ..

/-- R88: where the access raises no host fault, the host moves on after it. -/
theorem accessThen_next {a : Access} {s t : State} (after : State → HostState) (h : hostTurn a s = .next t)
    (hf : t.faulted = none) : accessThen a after s = .next (t.withHost (after t)) := by
  simp [accessThen, h, hf]

/-- R89: a move of the host leaves the block untouched. -/
theorem hostMoves_next {o : Option HostState} {s t : State} (h : hostMoves s o = .next t) : t = s.withHost t.host := by
  cases o with
  | none => cases h
  | some host => cases h; rfl

/-- R89: a line that is neither `wr` nor `rd` leaves the block untouched. -/
theorem runLine_local {line : Line} {s t : State} (hwr : ∀ off v, line ≠ .wr off v) (hrd : ∀ x off, line ≠ .rd x off)
    (h : runLine line s = .next t) : t = s.withHost t.host := by
  cases line with
  | wr off v => exact absurd rfl (hwr off v)
  | rd x off => exact absurd rfl (hrd x off)
  | label l => exact hostMoves_next (o := some _) h
  | assign x e => exact hostMoves_next h
  | ifGoto c l =>
    simp only [runLine] at h
    split at h
    · exact hostMoves_next h
    · exact hostMoves_next h
    · cases h
  | goto l => exact hostMoves_next h
  | halt => exact hostMoves_next (o := some _) h

/-- R88: a `wr` line whose value is known is that host write, and then the next line. -/
theorem runLine_wr {off v : Word} {val : HostVal} {s : State} (hv : val.eval s.host.vars = some v) :
    runLine (.wr off val) s = accessThen (.write 32 off v) (fun t => t.host.advance) s := by
  simp [runLine, hv]

/-- R88, R89: a host program's turn is the line the host stands at. -/
theorem step_program {s : State} {rest : List Turn} {line : Line} (ht : s.turns = .program :: rest)
    (hh : s.host.halted = false) (hl : s.host.program[s.host.line]? = some line) :
    step s = runLine line s.pastTurn := by
  simp [step_cons ht, takeTurn, programTurn, hh, hl]

/-- Settles O52: a program turn runs the host's line, which is one access and the move to the next line, or host-local. -/
theorem hostLines : Obligations.HostLines := by
  intro s t rest ht hh
  have host_kept {a : Access} (h : hostTurn a s.pastTurn = .next t) : t.host = s.host :=
    hostAccess_host (s := s.pastTurn) (hostTurn_next h).2
  refine ⟨fun off val v hl hval hacc hf => ?_, fun off x hl hacc hf => ?_, fun line hl hwr hrd h => ?_⟩
  · have hv : val.eval s.host.vars = some v := by
      rcases hval with rfl | ⟨x, u, rfl, hx, rfl⟩
      · rfl
      · simp [HostVal.eval, hx]
    rw [step_program ht hh hl, runLine_wr (s := s.pastTurn) hv, accessThen_next _ hacc hf, ← host_kept hacc]
    rfl
  · refine ⟨_, (step_program ht hh hl).trans (accessThen_next _ hacc hf), rfl, ?_, lookupVar_assignVar ..⟩
    simp [HostState.advance, host_kept hacc]
  · exact runLine_local hwr hrd ((step_program ht hh hl).symm.trans h)

end Sys2Proof.Machine

/-! What both ciphers share (R104, R107, R134 to R136): rounds over separate tuples, and iterated rounds. -/

namespace Sys2Proof.Machine

/-- Two arrays with the same words are the same array. -/
theorem words16_ext {w w' : Words16} (h : ∀ k : Fin 16, w[k] = w'[k]) : w = w' :=
  Vector.ext fun k hk => h ⟨k, hk⟩

/-- The words a tuple names. -/
abbrev Tuple.words (t : Tuple) : List (Fin 16) := [t.a, t.b, t.c, t.d]

/-- A quarter-round that works on the words of its tuple alone: it writes no other word, and what it writes is determined
by them. -/
structure WorksOnItsTuple (qr : Words16 → Tuple → Words16) : Prop where
  frame : ∀ w t k, k ∉ t.words → (qr w t)[k] = w[k]
  congr : ∀ w w' t, (∀ k ∈ t.words, w[k] = w'[k]) → ∀ k ∈ t.words, (qr w t)[k] = (qr w' t)[k]

/-- Different tuples of the list name different words. -/
abbrev Separate (ts : List Tuple) : Prop := ∀ t ∈ ts, ∀ u ∈ ts, t ≠ u → ∀ k ∈ t.words, k ∉ u.words

/-- Applied to two tuples without a common word, the later application leaves the words of the earlier one, which in turn
are the same whether or not the other application came before. -/
theorem WorksOnItsTuple.comm {qr : Words16 → Tuple → Words16} (hqr : WorksOnItsTuple qr) {t u : Tuple}
    (htu : ∀ k ∈ t.words, k ∉ u.words) (w : Words16) : qr (qr w t) u = qr (qr w u) t := by
  have hut : ∀ k ∈ u.words, k ∉ t.words := fun k hu ht => htu k ht hu
  apply words16_ext
  intro k
  by_cases ht : k ∈ t.words
  · calc (qr (qr w t) u)[k] = (qr w t)[k] := hqr.frame _ _ _ (htu k ht)
      _ = (qr (qr w u) t)[k] := hqr.congr _ _ _ (fun j hj => (hqr.frame w u j (htu j hj)).symm) k ht
  · rw [hqr.frame (qr w u) t k ht]
    by_cases hu : k ∈ u.words
    · exact hqr.congr _ _ _ (fun j hj => hqr.frame w t j (hut j hj)) k hu
    · rw [hqr.frame _ _ _ hu, hqr.frame _ _ _ ht, hqr.frame _ _ _ hu]

/-- R104, R134: the order in which separate tuples are taken does not matter. -/
theorem WorksOnItsTuple.foldl_perm {qr : Words16 → Tuple → Words16} (hqr : WorksOnItsTuple qr) {ts us : List Tuple}
    (hus : Separate us) (hp : ts.Perm us) (w : Words16) : ts.foldl qr w = applyTuples qr w us := by
  refine (hp.symm.foldl_eq' (fun t ht u hu v => ?_) w).symm
  by_cases htu : t = u
  · rw [htu]
  · exact hqr.comm (hus t ht u hu htu) v

/-- R107, R136: the model's iteration is Mathlib's. -/
theorem iterate_eq (f : Words16 → Words16) (n : Nat) (w : Words16) : iterate f n w = f^[n] w := by
  induction n generalizing w with
  | zero => rfl
  | succ n ih => exact ih (f w)

/-- R108, R137: a word of the sum. -/
theorem addWords_get (w x : Words16) (j : Fin 16) : (addWords w x)[j] = w[j] + x[j] := by
  simp [addWords]

/-- R109, R138: a word of a buffer written with a serialised array. -/
@[simp] theorem Buf.word_ofBytes_le32Bytes {n : Nat} (z : Vector Word n) (j : Fin n) :
    (Buf.ofBytes (le32Bytes z)).word j = z[j] :=
  le32_le32Bytes z j

end Sys2Proof.Machine

/-! The functions of SALSA20_BLOCK (R102 to R107). -/

namespace Sys2Proof.Machine

/-- One line of `QR_S` (R103): `W[p] <- W[p] ^ rotl32(W[q] +32 W[r], n)`. -/
def salsaLine (w : Words16) (p q r : Fin 16) (n : Nat) : Words16 := w.set p (w[p] ^^^ rotl32 (w[q] + w[r]) n)

/-- R103: the quarter-round is its four lines. -/
theorem salsaQR_eq (w : Words16) (a b c d : Fin 16) :
    salsaQR w ⟨a, b, c, d⟩ =
      salsaLine (salsaLine (salsaLine (salsaLine w b a d 7) c b a 9) d c b 13) a d c 18 := rfl

/-- R103: the word a line writes. -/
theorem salsaLine_same (w : Words16) (p q r : Fin 16) (n : Nat) :
    (salsaLine w p q r n)[p] = w[p] ^^^ rotl32 (w[q] + w[r]) n := by
  simp [salsaLine]

/-- R103: a line leaves every other word. -/
theorem salsaLine_other {w : Words16} {p q r k : Fin 16} {n : Nat} (h : k ≠ p) :
    (salsaLine w p q r n)[k] = w[k] := by
  rw [salsaLine, words_set, if_neg h.symm]

/-- A line reads only the words it names: two arrays that agree on words holding them agree there afterwards. -/
theorem salsaLine_congr {w w' : Words16} {l : List (Fin 16)} {p q r : Fin 16} (n : Nat) (hp : p ∈ l) (hq : q ∈ l)
    (hr : r ∈ l) (h : ∀ k ∈ l, w[k] = w'[k]) :
    ∀ k ∈ l, (salsaLine w p q r n)[k] = (salsaLine w' p q r n)[k] := by
  intro k hk
  simp only [salsaLine, words_set, h k hk, h p hp, h q hq, h r hr]

/-- R103: a word that `QR_S` does not name stays. -/
theorem salsaQR_other (w : Words16) {a b c d k : Fin 16} (h : k ∉ [a, b, c, d]) :
    (salsaQR w ⟨a, b, c, d⟩)[k] = w[k] := by
  simp only [List.mem_cons, List.not_mem_nil, or_false, not_or] at h
  obtain ⟨ha, hb, hc, hd⟩ := h
  rw [salsaQR_eq, salsaLine_other ha, salsaLine_other hd, salsaLine_other hc, salsaLine_other hb]

/-- Settles O26: a line reads what the lines before it have written, and no later line writes its word again. -/
theorem salsaQuarterRound : Obligations.SalsaQuarterRound := by
  intro w a b c d hnd
  have hne : a ≠ b ∧ a ≠ c ∧ a ≠ d ∧ b ≠ c ∧ b ≠ d ∧ c ≠ d := by simpa [and_assoc] using hnd
  obtain ⟨hab, hac, had, hbc, hbd, hcd⟩ := hne
  intro b' c' d' a'
  have hframe : ∀ k : Fin 16, k ∉ [a, b, c, d] → (salsaQR w ⟨a, b, c, d⟩)[k] = w[k] := fun _ => salsaQR_other w
  rw [salsaQR_eq] at hframe ⊢
  generalize h1 : salsaLine w b a d 7 = w1 at hframe ⊢
  generalize h2 : salsaLine w1 c b a 9 = w2 at hframe ⊢
  generalize h3 : salsaLine w2 d c b 13 = w3 at hframe ⊢
  have hb : w1[b] = b' := by rw [← h1, salsaLine_same]
  have hc : w2[c] = c' := by
    rw [← h2, salsaLine_same, hb, ← h1, salsaLine_other hbc.symm, salsaLine_other hab]
  have hd : w3[d] = d' := by
    rw [← h3, salsaLine_same, hc, ← h2, salsaLine_other hbc, hb, salsaLine_other hcd.symm, ← h1,
      salsaLine_other hbd.symm]
  refine ⟨?_, ?_, ?_, ?_, hframe⟩
  · rw [salsaLine_same, hd, ← h3, salsaLine_other hcd, hc, salsaLine_other had, ← h2, salsaLine_other hac, ← h1,
      salsaLine_other hab]
  · rw [salsaLine_other hab.symm, ← h3, salsaLine_other hbd, ← h2, salsaLine_other hbc, hb]
  · rw [salsaLine_other hac.symm, ← h3, salsaLine_other hcd, hc]
  · rw [salsaLine_other had.symm, hd]

/-- R103: `QR_S` reads and writes the words of its tuple alone. -/
theorem salsaQR_worksOnItsTuple : WorksOnItsTuple salsaQR where
  frame _ _ _ := salsaQR_other _
  congr w w' t h := by
    have ha : t.a ∈ t.words := by simp
    have hb : t.b ∈ t.words := by simp
    have hc : t.c ∈ t.words := by simp
    have hd : t.d ∈ t.words := by simp
    exact salsaLine_congr 18 ha hd hc (salsaLine_congr 13 hd hc hb (salsaLine_congr 9 hc hb ha
      (salsaLine_congr 7 hb ha hd h)))

/-- R104: the tuples of the column round have no word in common. -/
theorem salsaColumns_separate : Separate salsaColumns := by decide

/-- R105: the tuples of the row round have no word in common. -/
theorem salsaRows_separate : Separate salsaRows := by decide

/-- Settles O27: the tuples of each round are separate. -/
theorem salsaRoundTuples : Obligations.SalsaRoundTuples := fun w _ =>
  ⟨fun h => salsaQR_worksOnItsTuple.foldl_perm salsaColumns_separate h w,
    fun h => salsaQR_worksOnItsTuple.foldl_perm salsaRows_separate h w⟩

/-- Settles O28: `Permute_S` iterates the double-round. -/
theorem salsaTwentyRounds : Obligations.SalsaTwentyRounds := fun x => iterate_eq salsaDoubleRound 10 x

/-- Settles O25: the array `salsaInit` writes out is the table of R102. -/
theorem salsaInitialState : Obligations.SalsaInitialState := fun _ _ _ _ => rfl

end Sys2Proof.Machine

/-! The commands' steps (R110, R139, R172, R204): the issue while IDLE, and the completion of a block operation. -/

namespace Sys2Proof.Machine

/-- The block once a command is accepted (R204), in the first phase of its operation. -/
def State.begun (first : Phase) (s : State) : State := { s with result := .ok, cmdErr := false, phase := first }

/-- R204: a command with valid operands is accepted. -/
theorem accept_valid {i : Instr} {s : State} (first : Phase) (h : operandsValid i s = true) :
    accept i first s = s.begun first := by
  rw [accept, if_pos h, State.begun]

/-- R204: while IDLE a command's step is its issue, into the operation's first phase. -/
theorem exec_idle {i : Instr} {first : Phase} {s : State} (hp : s.phase = .idle) (hrun : first.running = some i)
    (hl : first.inLoop = false) : exec i s = .next (accept i first s) := by
  cases first with
  | salsaRun => cases hrun; simp [exec, execSalsa20Block, hp]
  | chachaRun => cases hrun; simp [exec, execChacha20Block, hp]
  | kdfInit => cases hrun; simp [exec, execAeskdfTransform, kdfStep, hp]
  | idle => cases hrun
  | kdfCheck | kdfWait | kdfRound => cases hl

/-- R204: a command issued while IDLE with its operands valid begins its operation. -/
theorem exec_idle_valid {i : Instr} {first : Phase} {s : State} (hp : s.phase = .idle)
    (hrun : first.running = some i) (hl : first.inLoop = false) (hv : operandsValid i s = true) :
    exec i s = .next (s.begun first) := by
  rw [exec_idle hp hrun hl, accept_valid first hv]

/-- Settles O23: the operand registers of each command are those `operandsValid` reads. -/
theorem eachCommandIsAccepted : Obligations.EachCommandIsAccepted := fun s hp =>
  ⟨fun hk hi hc hco => exec_idle_valid hp rfl rfl ((operandsValid_salsa20 s).2 ⟨hk, hi, hc, hco⟩),
    fun hk hn hc => exec_idle_valid hp rfl rfl ((operandsValid_chacha20 s).2 ⟨hk, hn, hc⟩),
    fun hs hk hr => exec_idle_valid hp rfl rfl ((operandsValid_aeskdf s).2 ⟨hs, hk, hr⟩)⟩

/-- R110: in its own phase SALSA20_BLOCK completes. -/
theorem exec_salsaRun {s : State} (h : s.phase = .salsaRun) : exec .salsa20Block s = .next (salsaComplete s) := by
  simp [exec, execSalsa20Block, h]

/-- R139: in its own phase CHACHA20_BLOCK completes. -/
theorem exec_chachaRun {s : State} (h : s.phase = .chachaRun) : exec .chacha20Block s = .next (chachaComplete s) := by
  simp [exec, execChacha20Block, h]

/-- R109, R110: OUT after SALSA20_BLOCK. -/
@[simp] theorem salsaComplete_out (s : State) :
    (salsaComplete s).out = Buf.ofBytes (salsa20Block s.sKey.bytes s.sIv.bytes s.sCtr.bytes s.sConst.bytes) := rfl

/-- R138, R139: OUT after CHACHA20_BLOCK. -/
@[simp] theorem chachaComplete_out (s : State) :
    (chachaComplete s).out = Buf.ofBytes (chacha20Block s.cKey.bytes s.cNonce.bytes s.cCtr.bytes) := rfl

/-- R110: what SALSA20_BLOCK changes at its completion. -/
theorem salsaComplete_frame (s : State) :
    salsaComplete s = { s with
      stateX := (salsaComplete s).stateX, stateW := (salsaComplete s).stateW, out := (salsaComplete s).out,
      result := .ok, phase := .idle } := rfl

/-- R107, R108: a word of the block. -/
theorem salsa20Block_word (key : WordBytes 8) (iv ctr : WordBytes 2) (const : WordBytes 4) (j : Fin 16) :
    (Buf.ofBytes (salsa20Block key iv ctr const)).word j =
      (salsaPermute (salsaInit key iv ctr const))[j] + (salsaInit key iv ctr const)[j] := by
  rw [salsa20Block, Buf.word_ofBytes_le32Bytes, salsaWords, addWords_get]

/-- Settles O29: the completion step writes the serialised sums of R108. -/
theorem salsaCompletes : Obligations.SalsaCompletes := fun s hp =>
  ⟨salsaComplete s, exec_salsaRun hp, salsaComplete_frame s, rfl, fun j =>
    ⟨salsa20Block_word _ _ _ _ j, Buf.isWritten_ofBytes _ j⟩⟩

/-- R30: the STATUS word of a block operation in progress. -/
theorem statusWord_blockRunning {s : State} (hp : s.phase = .salsaRun ∨ s.phase = .chachaRun) (hr : s.result = .ok)
    (he : s.cmdErr = false) : statusWord s = 1 := by
  rcases hp with hp | hp
  · rw [statusWord, hp, hr, he]; rfl
  · rw [statusWord, hp, hr, he]; rfl

/-- R30: the STATUS word of an idle block after a success. -/
theorem statusWord_idleOk {s : State} (hp : s.phase = .idle) (hr : s.result = .ok) (he : s.cmdErr = false) :
    statusWord s = 0 := by
  rw [statusWord, hp, hr, he]; rfl

/-- R204: the CMD write of a command with valid operands begins its operation. -/
theorem step_writeCmd_valid {s : State} {i : Instr} {first : Phase} {w : Word} {rest : List Turn}
    (hp : s.phase = .idle) (hf : s.faulted = none) (ht : s.turns = .access (.write 32 0x000 w) :: rest)
    (hd : decode w = .ok i) (hrun : first.running = some i) (hl : first.inLoop = false)
    (hv : operandsValid i s = true) : step s = .next (s.pastTurn.begun first) := by
  rw [step_writeCmd hp hf ht hd]
  exact exec_idle_valid (s := s.pastTurn) hp hrun hl hv

/-- R22, R72: an ENGINE turn is a step of the operation in progress. -/
theorem step_engine {s : State} {i : Instr} {rest : List Turn} (ht : s.turns = .engine :: rest)
    (hr : s.phase.running = some i) : step s = exec i s.pastTurn :=
  (step_cons ht).trans (engineTurn_running (s := s.pastTurn) hr)

/-- Settles O30: the CMD write accepts the command, and the ENGINE turn completes it. -/
theorem salsaWholeCommand : Obligations.SalsaWholeCommand := by
  intro s rest hp hf hk hi hc hco ht
  have hissue : step s = .next (s.pastTurn.begun .salsaRun) :=
    step_writeCmd_valid hp hf ht decode_salsa20Block rfl rfl ((operandsValid_salsa20 s).2 ⟨hk, hi, hc, hco⟩)
  have hturns : (s.pastTurn.begun .salsaRun).turns = .engine :: rest := congrArg List.tail ht
  have hrun : step (s.pastTurn.begun .salsaRun) = .next (salsaComplete (s.pastTurn.begun .salsaRun).pastTurn) :=
    (step_engine hturns rfl).trans (exec_salsaRun rfl)
  refine ⟨_, _, hissue, statusWord_blockRunning (.inl rfl) rfl rfl, hrun, statusWord_idleOk rfl rfl rfl, rfl,
    Buf.valid_ofBytes _, ?_⟩
  obtain rfl : s.turns.tail.tail = rest := by rw [ht]; rfl
  rw [hp]
  rfl

/-- Settles O37: OUT after either operation is a function of its input registers' bytes. -/
theorem blocksAreDeterministic : Obligations.BlocksAreDeterministic := by
  intro s1 s2
  refine ⟨fun h1 h2 hk hi hc hco => ?_, fun h1 h2 hk hn hc => ?_⟩
  · refine ⟨_, _, exec_salsaRun h1, exec_salsaRun h2, ?_⟩
    rw [salsaComplete_out, salsaComplete_out, hk, hi, hc, hco]
  · refine ⟨_, _, exec_chachaRun h1, exec_chachaRun h2, ?_⟩
    rw [chachaComplete_out, chachaComplete_out, hk, hn, hc]

end Sys2Proof.Machine

/-! The functions of CHACHA20_BLOCK (R132 to R136). -/

namespace Sys2Proof.Machine

/-- R133, one half-line pair: the sum it writes. -/
theorem chachaStep_sum (w : Words16) {p r : Fin 16} (q : Fin 16) (n : Nat) (h : p ≠ r) :
    (chachaStep w p q r n)[p] = w[p] + w[q] := by
  rw [chachaStep_get _ _ _ _ _ _ h, if_neg h, if_pos rfl]

/-- R133, one half-line pair: the rotated word it writes. -/
theorem chachaStep_rotated (w : Words16) {p r : Fin 16} (q : Fin 16) (n : Nat) (h : p ≠ r) :
    (chachaStep w p q r n)[r] = rotl32 (w[r] ^^^ (w[p] + w[q])) n := by
  rw [chachaStep_get _ _ _ _ _ _ h, if_pos rfl]

/-- Half of `QR_C` (R133): two half-line pairs, which rotate by `m` and by `n`. -/
def chachaHalfQR (w : Words16) (t : Tuple) (m n : Nat) : Words16 :=
  chachaStep (chachaStep w t.a t.b t.d m) t.c t.d t.b n

/-- R133: the two halves of `QR_C` differ in their rotations only. -/
theorem chachaQR_eq (w : Words16) (t : Tuple) : chachaQR w t = chachaHalfQR (chachaHalfQR w t 16 12) t 8 7 := rfl

/-- R133: what half of `QR_C` makes of four different words. -/
theorem chachaHalfQR_words (w : Words16) {a b c d : Fin 16} (m n : Nat) (hnd : [a, b, c, d].Nodup) :
    let a' := w[a] + w[b]
    let d' := rotl32 (w[d] ^^^ a') m
    let c' := w[c] + d'
    let b' := rotl32 (w[b] ^^^ c') n
    (chachaHalfQR w ⟨a, b, c, d⟩ m n)[a] = a' ∧ (chachaHalfQR w ⟨a, b, c, d⟩ m n)[b] = b' ∧
    (chachaHalfQR w ⟨a, b, c, d⟩ m n)[c] = c' ∧ (chachaHalfQR w ⟨a, b, c, d⟩ m n)[d] = d' := by
  have hne : a ≠ b ∧ a ≠ c ∧ a ≠ d ∧ b ≠ c ∧ b ≠ d ∧ c ≠ d := by simpa [and_assoc] using hnd
  obtain ⟨hab, hac, had, hbc, hbd, hcd⟩ := hne
  intro a' d' c' b'
  rw [chachaHalfQR]
  generalize h1 : chachaStep w a b d m = w1
  have ha : w1[a] = a' := by rw [← h1, chachaStep_sum _ _ _ had]
  have hd : w1[d] = d' := by rw [← h1, chachaStep_rotated _ _ _ had]
  have hb : w1[b] = w[b] := by rw [← h1, chachaStep_frame _ _ _ _ _ _ hab.symm hbd]
  have hc : w1[c] = w[c] := by rw [← h1, chachaStep_frame _ _ _ _ _ _ hac.symm hcd]
  refine ⟨?_, ?_, ?_, ?_⟩
  · rw [chachaStep_frame _ _ _ _ _ _ hac hab, ha]
  · rw [chachaStep_rotated _ _ _ hbc.symm, hb, hc, hd]
  · rw [chachaStep_sum _ _ _ hbc.symm, hc, hd]
  · rw [chachaStep_frame _ _ _ _ _ _ hcd.symm hbd.symm, hd]

/-- R133: half of `QR_C` leaves a word that it does not name. -/
theorem chachaHalfQR_other (w : Words16) {t : Tuple} {k : Fin 16} (m n : Nat) (h : k ∉ t.words) :
    (chachaHalfQR w t m n)[k] = w[k] := by
  simp only [Tuple.words, List.mem_cons, List.not_mem_nil, or_false, not_or] at h
  obtain ⟨ha, hb, hc, hd⟩ := h
  rw [chachaHalfQR, chachaStep_frame _ _ _ _ _ _ hc hb, chachaStep_frame _ _ _ _ _ _ ha hd]

/-- R133: half of `QR_C` reads the words of its tuple alone. -/
theorem chachaHalfQR_congr {w w' : Words16} {t : Tuple} (m n : Nat) (h : ∀ k ∈ t.words, w[k] = w'[k]) :
    ∀ k ∈ t.words, (chachaHalfQR w t m n)[k] = (chachaHalfQR w' t m n)[k] := by
  have ha : t.a ∈ t.words := by simp
  have hb : t.b ∈ t.words := by simp
  have hc : t.c ∈ t.words := by simp
  have hd : t.d ∈ t.words := by simp
  exact chachaStep_congr _ _ _ _ _ _ n hc hd hb (chachaStep_congr _ _ _ _ _ _ m ha hb hd h)

/-- R133: `QR_C` reads and writes the words of its tuple alone. -/
theorem chachaQR_worksOnItsTuple : WorksOnItsTuple chachaQR where
  frame w t k h := by
    rw [chachaQR_eq, chachaHalfQR_other _ _ _ h, chachaHalfQR_other _ _ _ h]
  congr _ _ _ h := chachaHalfQR_congr 8 7 (chachaHalfQR_congr 16 12 h)

/-- Settles O32: the second half works on what the first half made of the four words. -/
theorem chachaQuarterRound : Obligations.ChachaQuarterRound := by
  intro w a b c d hnd a1 d1 c1 b1 a2 d2 c2 b2
  obtain ⟨ha1, hb1, hc1, hd1⟩ := chachaHalfQR_words w 16 12 hnd
  obtain ⟨ha2, hb2, hc2, hd2⟩ := chachaHalfQR_words (chachaHalfQR w ⟨a, b, c, d⟩ 16 12) 8 7 hnd
  rw [ha1, hb1] at ha2
  rw [ha1, hb1, hd1] at hd2
  rw [ha1, hb1, hc1, hd1] at hb2 hc2
  exact ⟨ha2, hb2, hc2, hd2, chachaQR_worksOnItsTuple.frame w ⟨a, b, c, d⟩⟩

/-- R134: the tuples of the column round have no word in common. -/
theorem chachaColumns_separate : Separate chachaColumns := by decide

/-- R135: the tuples of the diagonal round have no word in common. -/
theorem chachaDiagonals_separate : Separate chachaDiagonals := by decide

/-- Settles O33: the tuples of each round are separate. -/
theorem chachaRoundTuples : Obligations.ChachaRoundTuples := fun w _ =>
  ⟨fun h => chachaQR_worksOnItsTuple.foldl_perm chachaColumns_separate h w,
    fun h => chachaQR_worksOnItsTuple.foldl_perm chachaDiagonals_separate h w⟩

/-- Settles O34: `Permute_C` iterates the double-round. -/
theorem chachaTwentyRounds : Obligations.ChachaTwentyRounds := fun x => iterate_eq chachaDoubleRound 10 x

/-- Settles O31: the array `chachaInit` writes out is the table of R132. -/
theorem chachaInitialState : Obligations.ChachaInitialState := fun _ _ _ => rfl

end Sys2Proof.Machine

/-! The command CHACHA20_BLOCK (R137 to R139). -/

namespace Sys2Proof.Machine

/-- R139: what CHACHA20_BLOCK changes at its completion. -/
theorem chachaComplete_frame (s : State) :
    chachaComplete s = { s with
      stateX := (chachaComplete s).stateX, stateW := (chachaComplete s).stateW, out := (chachaComplete s).out,
      result := .ok, phase := .idle } := rfl

/-- R136, R137: a word of the block. -/
theorem chacha20Block_word (key : WordBytes 8) (nonce : WordBytes 3) (ctr : WordBytes 1) (j : Fin 16) :
    (Buf.ofBytes (chacha20Block key nonce ctr)).word j =
      (chachaPermute (chachaInit key nonce ctr))[j] + (chachaInit key nonce ctr)[j] := by
  rw [chacha20Block, Buf.word_ofBytes_le32Bytes, chachaWords, addWords_get]

/-- Settles O35: the completion step writes the serialised sums of R137. -/
theorem chachaCompletes : Obligations.ChachaCompletes := fun s hp =>
  ⟨chachaComplete s, exec_chachaRun hp, chachaComplete_frame s, rfl, fun j =>
    ⟨chacha20Block_word _ _ _ j, Buf.isWritten_ofBytes _ j⟩⟩

/-- Settles O36: the CMD write accepts the command, and the ENGINE turn completes it. -/
theorem chachaWholeCommand : Obligations.ChachaWholeCommand := by
  intro s rest hp hf hk hn hc ht
  have hissue : step s = .next (s.pastTurn.begun .chachaRun) :=
    step_writeCmd_valid hp hf ht decode_chacha20Block rfl rfl ((operandsValid_chacha20 s).2 ⟨hk, hn, hc⟩)
  have hturns : (s.pastTurn.begun .chachaRun).turns = .engine :: rest := congrArg List.tail ht
  have hrun : step (s.pastTurn.begun .chachaRun) = .next (chachaComplete (s.pastTurn.begun .chachaRun).pastTurn) :=
    (step_engine hturns rfl).trans (exec_chachaRun rfl)
  refine ⟨_, _, hissue, statusWord_blockRunning (.inr rfl) rfl rfl, hrun, statusWord_idleOk rfl rfl rfl, rfl,
    Buf.valid_ofBytes _, ?_⟩
  obtain rfl : s.turns.tail.tail = rest := by rw [ht]; rfl
  rw [hp]
  rfl

end Sys2Proof.Machine

/-! The functions of AESKDF_TRANSFORM (R162), and its steps by PHASE (R163, R165, R169). -/

namespace Sys2Proof.Machine

/-- R162: the low half of a round's result is the low half, encrypted. -/
@[simp] theorem lowHalf_kdfF (enc : WordBytes 8 → WordBytes 4 → WordBytes 4) (seed k : WordBytes 8) :
    lowHalf (kdfF enc seed k) = enc seed (lowHalf k) := lowHalf_joinHalves _ _

/-- R162: the high half of a round's result is the high half, encrypted. -/
@[simp] theorem highHalf_kdfF (enc : WordBytes 8 → WordBytes 4 → WordBytes 4) (seed k : WordBytes 8) :
    highHalf (kdfF enc seed k) = enc seed (highHalf k) := highHalf_joinHalves _ _

/-- Settles O39: the round function joins two encryptions, and the two halves are the whole key. -/
theorem roundFunctionHalves : Obligations.RoundFunctionHalves := fun enc seed k =>
  ⟨lowHalf_kdfF enc seed k, highHalf_kdfF enc seed k, joinHalves_low_high k⟩

/-- Settles O40: by induction on the number of rounds, since a round treats both halves alike. -/
theorem equalHalvesStayEqual : Obligations.EqualHalvesStayEqual := by
  intro enc seed k n h
  induction n with
  | zero => exact h
  | succ n ih => rw [kdfFn_succ, lowHalf_kdfF, highHalf_kdfF, ih]

/-- R163: in KDF_INIT the step is the engine construction. -/
theorem exec_kdfInit {s : State} (h : s.phase = .kdfInit) :
    exec .aeskdfTransform s = .next (kdfConstruct Config.aesEngineCanFail s) := by
  simp [exec, execAeskdfTransform, kdfStep, h]

/-- R165: in KDF_CHECK the step is the round check. -/
theorem exec_kdfCheck {s : State} (h : s.phase = .kdfCheck) : exec .aeskdfTransform s = .next (kdfConsider s) := by
  simp [exec, execAeskdfTransform, kdfStep, h]

/-- R166: in KDF_WAIT the ENGINE has no step. -/
theorem exec_kdfWait {s : State} (h : s.phase = .kdfWait) : exec .aeskdfTransform s = .next s := by
  simp [exec, execAeskdfTransform, kdfStep, h]

/-- R169: in KDF_ROUND the step is the round. -/
theorem exec_kdfRound {s : State} (h : s.phase = .kdfRound) :
    exec .aeskdfTransform s = .next (kdfApply Config.aes256Enc Config.aesEngineCanFail s) := by
  simp [exec, execAeskdfTransform, kdfStep, h]

/-- R171, R240: what an engine error changes; no word of KDF_KEY is written after it. -/
theorem engineError_frame (r : Result) (s : State) :
    (∀ j, (engineError r s).kdfKey.isWritten j = false) ∧
      engineError r s = { s with
        kdfKey := (engineError r s).kdfKey, fresh := (engineError r s).fresh, aesContext := none, result := r,
        phase := .idle } :=
  ⟨fun j => by simp [Buf.isWritten], rfl⟩

/-- Settles O41: the two outcomes of the engine construction. -/
theorem kdfConstruction : Obligations.KdfConstruction := by
  intro s hp
  refine ⟨_, exec_kdfInit hp, ?_⟩
  rcases kdfConstruct_cases Config.aesEngineCanFail s with ⟨hd, h⟩ | ⟨hd, h⟩ <;> rw [h]
  · rw [if_pos hd]
  · rw [if_neg (by simp [hd])]
    exact engineError_frame .engineInitFailed (drawTaken s)

/-- Settles O42: the three outcomes of the round check exclude each other. -/
theorem kdfRoundCheck : Obligations.KdfRoundCheck := by
  intro s hp
  rw [exec_kdfCheck hp]
  refine ⟨fun hend => ?_, fun hne hen hcad => ?_, fun hne hno => ?_⟩
  · rw [kdfConsider, if_pos hend]
    rfl
  · rw [kdfConsider, if_neg hne, if_pos (by simp [hen, atCadence, Config.progressInterval, hcad])]
    rfl
  · rw [kdfConsider, if_neg hne, if_neg (by rcases hno with h | h <;> simp [atCadence, Config.progressInterval, h])]

/-- Settles O43: the two outcomes of a round. -/
theorem kdfRoundStep : Obligations.KdfRoundStep := by
  intro s hp
  refine ⟨_, exec_kdfRound hp, ?_⟩
  rcases kdfApply_cases Config.aes256Enc Config.aesEngineCanFail s with ⟨hd, h⟩ | ⟨hd, h⟩ <;> rw [h]
  · rw [if_pos hd]
    exact ⟨rfl, Buf.valid_ofBytes _, rfl⟩
  · rw [if_neg (by simp [hd])]
    exact engineError_frame .engineStepFailed (drawTaken s)

end Sys2Proof.Machine

/-! What ends a progress request (R166, R280). -/

namespace Sys2Proof.Machine

/-- R206: of the host accesses a write of PROG_RESP alone leaves KDF_WAIT. -/
theorem hostAccess_leavesWait {a : Access} {s t : State} (hp : s.phase = .kdfWait) (h : hostAccess a s = .next t)
    (hne : t.phase ≠ .kdfWait) : ∃ v, a = .write 32 0x008 v := by
  have busy : s.phase ≠ .idle := by simp [hp]
  rcases hostAccess_cases h with ⟨_, -, rfl⟩ | ⟨_, -, -, rfl⟩ | ⟨_, _, _, _, -, -, hi, -⟩ |
    ⟨_, _, _, _, -, -, hi, -⟩ | ⟨w, off, v, rfl, hadm, -⟩ | ⟨_, _, _, -, -, hi, -⟩ | ⟨_, _, _, _, _, -, -, hi, -⟩
  · exact absurd hp hne
  · exact absurd hp hne
  · exact absurd hi busy
  · exact absurd hi busy
  · obtain rfl : w = 32 := (admission_ok hadm).1
    obtain rfl : off = 0x008 := BitVec.eq_of_toNat_eq (admission_offset hadm).symm
    exact ⟨v, rfl⟩
  · exact absurd hi busy
  · exact absurd hi busy

/-- R88: a line that makes an access leaves the block as the access does. -/
theorem accessThen_phase {a : Access} {after : State → HostState} {s t : State}
    (h : accessThen a after s = .next t) : ∃ u, hostAccess a s = .next u ∧ t.phase = u.phase := by
  unfold accessThen at h
  split at h
  · next u hu =>
    cases h
    exact ⟨u, (hostTurn_next hu).2, by split <;> rfl⟩
  · cases h
  · cases h

/-- R88, R206: of the lines of a host program a `wr` of PROG_RESP alone leaves KDF_WAIT. -/
theorem runLine_leavesWait {line : Line} {s t : State} (hp : s.phase = .kdfWait) (h : runLine line s = .next t)
    (hne : t.phase ≠ .kdfWait) : ∃ val, line = .wr 0x008 val := by
  have access {a : Access} {after : State → HostState} (h : accessThen a after s = .next t) :
      ∃ v, a = .write 32 0x008 v := by
    obtain ⟨u, hu, hph⟩ := accessThen_phase h
    exact hostAccess_leavesWait hp hu (hph ▸ hne)
  by_cases hwr : ∃ off val, line = .wr off val
  · obtain ⟨off, val, rfl⟩ := hwr
    simp only [runLine] at h
    split at h
    · obtain ⟨v, hv⟩ := access h
      cases hv
      exact ⟨val, rfl⟩
    · cases h
  by_cases hrd : ∃ x off, line = .rd x off
  · obtain ⟨x, off, rfl⟩ := hrd
    obtain ⟨v, hv⟩ := access h
    cases hv
  · push Not at hwr hrd
    rw [runLine_local hwr hrd h] at hne
    exact absurd hp hne

/-- R88, R206: a program turn that leaves KDF_WAIT is a `wr` line of PROG_RESP. -/
theorem programTurn_leavesWait {s t : State} (hp : s.phase = .kdfWait) (h : programTurn s = .next t)
    (hne : t.phase ≠ .kdfWait) : ∃ val, s.host.program[s.host.line]? = some (.wr 0x008 val) := by
  unfold programTurn at h
  split at h
  · cases h
    exact absurd hp hne
  · split at h
    · next line hl =>
      obtain ⟨val, rfl⟩ := runLine_leavesWait hp h hne
      exact ⟨val, hl⟩
    · cases h

/-- Settles O45: by cases on the turn that takes place. -/
theorem onlyTheHostEndsAWait : Obligations.OnlyTheHostEndsAWait := by
  intro s hp
  have hrun : s.phase.running = some .aeskdfTransform := by simp [hp, Phase.running]
  have engine (rest : List Turn) (ht : s.turns = .engine :: rest) : step s = .next s.pastTurn :=
    (step_engine ht hrun).trans (exec_kdfWait (s := s.pastTurn) hp)
  have hang (ht : s.turns = []) : step s = .fault .hang := by simp [step, nextStep, ht, unattended, hp]
  refine ⟨engine, hang, fun t h hne => ?_⟩
  cases ht : s.turns with
  | nil => rw [hang ht] at h; cases h
  | cons turn rest =>
    rw [List.head?_cons]
    have hturn := h
    rw [step_cons ht] at hturn
    cases turn with
    | engine =>
      rw [engine rest ht] at h
      cases h
      exact absurd hp hne
    | access a =>
      obtain ⟨v, rfl⟩ := hostAccess_leavesWait (s := s.pastTurn) hp (hostTurn_next hturn).2 hne
      exact .inr (.inl ⟨v, rfl⟩)
    | program => exact .inr (.inr ⟨rfl, programTurn_leavesWait (s := s.pastTurn) hp hturn hne⟩)
    | reset => exact .inl rfl

end Sys2Proof.Machine

/-! Whole runs of AESKDF_TRANSFORM (R167, R168, R174 to R177): the states of a run whose draws are ok, the step from
each to the next, and the rounds by induction on their number. -/

namespace Sys2Proof.Machine

/-- KDF_KEY after `n` rounds of the operation that begins in `s` (R169). -/
def State.keyAfter (s : State) : Nat → Buf 8
  | 0 => s.kdfKey
  | n + 1 => Buf.ofBytes (kdfF Config.aes256Enc s.kdfSeed.bytes (s.keyAfter n).bytes)

/-- PROG_INDEX once the first `n` rounds of the operation that begins in `s` have been considered (R165, R166). -/
def State.lastRequest (s : State) : Nat → DWord
  | 0 => s.progIndex
  | n + 1 => if s.progressEn = true ∧ n % 100000 = 0 then BitVec.ofNat 64 n else s.lastRequest n

/-- The operation that begins in `s`, about to consider round `i`, with the turns and draws to come. -/
def State.atCheck (s : State) (i : Nat) (ts : List Turn) (ds : List Bool) : State :=
  { s with
    phase := .kdfCheck, roundIndex := BitVec.ofNat 64 i, kdfKey := s.keyAfter i, aesContext := some s.kdfSeed.bytes,
    progIndex := s.lastRequest i, turns := ts, draws := ds }

/-- The same operation once round `i` has been considered: it waits for the answer, or is to apply the round. -/
def State.considered (s : State) (p : Phase) (i : Nat) (ts : List Turn) (ds : List Bool) : State :=
  { s.atCheck i ts ds with phase := p, progIndex := s.lastRequest (i + 1) }

/-- R168, R175: the key after `n` rounds is `F^n` of the key at the beginning. -/
theorem keyAfter_bytes (s : State) (n : Nat) :
    (s.keyAfter n).bytes = kdfFn Config.aes256Enc s.kdfSeed.bytes n s.kdfKey.bytes := by
  induction n with
  | zero => rfl
  | succ n ih => rw [kdfFn_succ, ← ih]; rfl

/-- R165, R166: considering a round at the cadence with PROGRESS_EN = 1 raises a request for it. -/
theorem lastRequest_request {s : State} {n : Nat} (hen : s.progressEn = true) (hcad : n % 100000 = 0) :
    s.lastRequest (n + 1) = BitVec.ofNat 64 n := if_pos ⟨hen, hcad⟩

/-- R165: considering any other round raises none. -/
theorem lastRequest_noRequest {s : State} {n : Nat} (h : s.progressEn = false ∨ n % 100000 ≠ 0) :
    s.lastRequest (n + 1) = s.lastRequest n := by
  rw [State.lastRequest, if_neg]
  rintro ⟨hen, hcad⟩
  exact h.elim (by simp [hen]) (fun hne => hne hcad)

/-- R174: with PROGRESS_EN = 0 no request is ever raised. -/
theorem lastRequest_off {s : State} (h : s.progressEn = false) (n : Nat) : s.lastRequest n = s.progIndex := by
  induction n with
  | zero => rfl
  | succ n ih => rw [lastRequest_noRequest (.inl h), ih]

/-- R177: with PROGRESS_EN = 1 the last request is for the last multiple of 100000 below the number of rounds. -/
theorem lastRequest_on {s : State} (h : s.progressEn = true) (n : Nat) :
    s.lastRequest n = if n = 0 then s.progIndex else BitVec.ofNat 64 (100000 * ((n - 1) / 100000)) := by
  induction n with
  | zero => rfl
  | succ n ih =>
    rw [if_neg (Nat.succ_ne_zero n), Nat.add_sub_cancel]
    by_cases hcad : n % 100000 = 0
    · rw [lastRequest_request h hcad, Nat.mul_div_cancel' (Nat.dvd_of_mod_eq_zero hcad)]
    · have hn : n ≠ 0 := by rintro rfl; exact hcad rfl
      have hdiv : (n - 1) / 100000 = n / 100000 := by omega
      rw [lastRequest_noRequest (.inr hcad), ih, if_neg hn, hdiv]

/-- R22, R207: where an ENGINE turn comes next, or no turn is left, the step is that of the operation in progress. -/
theorem step_engineNext {s : State} {i : Instr} (ht : s.turns.headD .engine = .engine)
    (hr : s.phase.running = some i) (hw : s.phase ≠ .kdfWait) : step s = exec i s.pastTurn := by
  cases hs : s.turns with
  | nil =>
    have hpast : s.pastTurn = s := by cases s; simp_all [State.pastTurn]
    rw [hpast, ← unattended_running hr hw]
    simp [step, nextStep, hs]
  | cons turn rest =>
    obtain rfl : turn = .engine := by simpa [hs] using ht
    exact step_engine hs hr

/-- R163: the engine construction with an ok draw begins the loop at round 0. -/
theorem step_construct {s : State} {ds : List Bool} (hp : s.phase = .kdfInit) (ht : s.turns.headD .engine = .engine)
    (hd : s.draws = true :: ds) : step s = .next (s.atCheck 0 s.turns.tail ds) := by
  rw [step_engineNext ht (i := .aeskdfTransform) (by rw [hp]; rfl) (by simp [hp]), exec_kdfInit (s := s.pastTurn) hp,
    kdfConstruct, if_pos (drawAnswer_ok _ s.pastTurn ds hd), drawTaken_cons s.pastTurn true ds hd]
  rfl

section
variable {s : State} {i : Nat} {ts : List Turn} {ds : List Bool}

/-- The step of the round check is its command's step. -/
theorem step_atCheck (ht : ts.headD .engine = .engine) :
    step (s.atCheck i ts ds) = exec .aeskdfTransform (s.atCheck i ts.tail ds) :=
  step_engineNext (s := s.atCheck i ts ds) ht rfl (by simp [State.atCheck])

/-- R165: after round `N` the operation ends. -/
theorem step_lastCheck (ht : ts.headD .engine = .engine) :
    step (s.atCheck (roundCount s).toNat ts ds) =
      .next (finishKdf .ok (s.atCheck (roundCount s).toNat ts.tail ds)) := by
  have hend : (s.atCheck (roundCount s).toNat ts.tail ds).roundIndex = roundCount s := by simp [State.atCheck]
  obtain ⟨ends, -, -⟩ := kdfRoundCheck (s.atCheck (roundCount s).toNat ts.tail ds) rfl
  rw [step_atCheck ht]
  exact ends hend

/-- R164: below `N` the round index is the number of rounds, and the loop is not at its end. -/
theorem roundIndex_of_lt (hi : i < (roundCount s).toNat) :
    (BitVec.ofNat 64 i).toNat = i ∧ BitVec.ofNat 64 i ≠ roundCount s := by
  have hnat : (BitVec.ofNat 64 i).toNat = i := by
    rw [BitVec.toNat_ofNat, Nat.mod_eq_of_lt (hi.trans (roundCount s).isLt)]
  exact ⟨hnat, fun h => hi.ne (hnat.symm.trans (congrArg BitVec.toNat h))⟩

/-- R165, R166: with PROGRESS_EN = 1 a round at the cadence is asked about. -/
theorem step_check_request (ht : ts.headD .engine = .engine) (hi : i < (roundCount s).toNat)
    (hen : s.progressEn = true) (hcad : i % 100000 = 0) :
    step (s.atCheck i ts ds) = .next (s.considered .kdfWait i ts.tail ds) := by
  obtain ⟨hnat, hne⟩ := roundIndex_of_lt hi
  obtain ⟨-, request, -⟩ := kdfRoundCheck (s.atCheck i ts.tail ds) rfl
  rw [step_atCheck ht, request hne hen ((congrArg (· % 100000) hnat).trans hcad), State.considered,
    lastRequest_request hen hcad]
  rfl

/-- R165: every other round below `N` is to be applied. -/
theorem step_check_round (ht : ts.headD .engine = .engine) (hi : i < (roundCount s).toNat)
    (hno : s.progressEn = false ∨ i % 100000 ≠ 0) :
    step (s.atCheck i ts ds) = .next (s.considered .kdfRound i ts.tail ds) := by
  obtain ⟨hnat, hne⟩ := roundIndex_of_lt hi
  obtain ⟨-, -, round⟩ := kdfRoundCheck (s.atCheck i ts.tail ds) rfl
  have hno' : s.progressEn = false ∨ (BitVec.ofNat 64 i).toNat % 100000 ≠ 0 := by rwa [hnat]
  rw [step_atCheck ht, round hne hno', State.considered, lastRequest_noRequest hno]
  rfl

/-- R72: a host access that comes next. -/
theorem step_considered_access {p : Phase} {a : Access} :
    step (s.considered p i (.access a :: ts) ds) = hostTurn a (s.considered p i ts ds) :=
  step_cons (s := s.considered p i (.access a :: ts) ds) (rest := ts) rfl

/-- R167: the answer 0 goes on to the round. -/
theorem step_continue (hf : s.faulted = none) :
    step (s.considered .kdfWait i (.access (.write 32 0x008 0) :: ts) ds) = .next (s.considered .kdfRound i ts ds) := by
  obtain ⟨-, -, continues, -⟩ := progRespRegister (s.considered .kdfWait i ts ds) 0 hf
  exact step_considered_access.trans (continues rfl rfl)

/-- R168: another answer ends the operation. -/
theorem step_stop {v : Word} (hf : s.faulted = none) (hv : v ≠ 0) :
    step (s.considered .kdfWait i (.access (.write 32 0x008 v) :: ts) ds) =
      .next (finishKdf .ok (s.considered .kdfWait i ts ds)) := by
  obtain ⟨-, -, -, stops⟩ := progRespRegister (s.considered .kdfWait i ts ds) v hf
  exact step_considered_access.trans (stops rfl hv)

/-- R169: a round with an ok draw. -/
theorem step_round (ht : ts.headD .engine = .engine) :
    step (s.considered .kdfRound i ts (true :: ds)) = .next (s.atCheck (i + 1) ts.tail ds) := by
  have hexec : step (s.considered .kdfRound i ts (true :: ds)) =
      exec .aeskdfTransform (s.considered .kdfRound i ts.tail (true :: ds)) :=
    step_engineNext (s := s.considered .kdfRound i ts (true :: ds)) ht rfl (by simp [State.considered])
  rw [hexec, exec_kdfRound rfl, kdfApply, if_pos (drawAnswer_ok _ _ ds rfl), drawTaken_cons _ true ds rfl,
    State.atCheck, BitVec.ofNat_add]
  rfl

end

/-- A run and one step more. -/
theorem run_snoc {n : Nat} {s u t : State} (h : Host.Core.run Sys2Proof.core n s = .next u) (hs : step u = .next t) :
    Host.Core.run Sys2Proof.core (n + 1) s = .next t :=
  (run_add h).trans (run_one hs)

/-- R174: with no host turn and PROGRESS_EN = 0, construction and `n` rounds take `2n + 1` steps. -/
theorem run_unattended {s : State} {n : Nat} {ds : List Bool} (hp : s.phase = .kdfInit) (hen : s.progressEn = false)
    (ht : s.turns = []) (hd : s.draws = List.replicate (n + 1) true ++ ds) (hn : n ≤ (roundCount s).toNat) :
    Host.Core.run Sys2Proof.core (2 * n + 1) s = .next (s.atCheck n [] ds) := by
  induction n generalizing ds with
  | zero =>
    have hfirst := step_construct hp (by rw [ht]; rfl) hd
    rw [ht] at hfirst
    exact run_one hfirst
  | succ n ih =>
    have hd' : s.draws = List.replicate (n + 1) true ++ true :: ds := by
      rw [hd, List.replicate_succ', List.append_assoc, List.singleton_append]
    exact run_snoc (run_snoc (ih hd' (by omega)) (step_check_round rfl hn (.inl hen))) (step_round rfl)

/-- R165, R169: where the operation stands when it ends after `n` rounds. -/
theorem finishKdf_atCheck (s : State) (n : Nat) (ts : List Turn) (ds : List Bool) :
    finishKdf .ok (s.atCheck n ts ds) = { s with
      kdfKey := s.keyAfter n, roundIndex := BitVec.ofNat 64 n, result := .ok, phase := .idle, aesContext := none,
      progIndex := s.lastRequest n, turns := ts, draws := ds } := rfl

/-- R168: where the operation stands when it is stopped at the request for round `n`. -/
theorem finishKdf_considered (s : State) (p : Phase) (n : Nat) (ts : List Turn) (ds : List Bool) :
    finishKdf .ok (s.considered p n ts ds) = { s with
      kdfKey := s.keyAfter n, roundIndex := BitVec.ofNat 64 n, result := .ok, phase := .idle, aesContext := none,
      progIndex := s.lastRequest (n + 1), turns := ts, draws := ds } := rfl

/-- Settles O46: after `2N + 1` steps the operation stands at its last check, and before that at a check or a round. -/
theorem runWithoutRequests : Obligations.RunWithoutRequests := by
  intro s ds hp hen ht hd
  have reach (n : Nat) (hn : n ≤ (roundCount s).toNat) : ∃ ds', Host.Core.run Sys2Proof.core (2 * n + 1) s =
      .next (s.atCheck n [] ds') := by
    refine ⟨List.replicate ((roundCount s).toNat - n) true ++ ds, run_unattended hp hen ht ?_ hn⟩
    rw [hd, ← List.append_assoc, List.replicate_append_replicate]
    congr 2
    omega
  refine ⟨fun k hk => ?_, _, run_snoc (run_unattended hp hen ht hd le_rfl) (step_lastCheck rfl),
    keyAfter_bytes s _, ?_⟩
  · obtain ⟨n, rfl | rfl⟩ := Nat.even_or_odd' k
    · cases n with
      | zero => exact ⟨s, rfl, by simp [hp]⟩
      | succ n =>
        obtain ⟨ds', h⟩ := reach n (by omega)
        exact ⟨_, run_snoc h (step_check_round rfl (by omega) (.inl hen)), by simp [State.considered]⟩
    · obtain ⟨ds', h⟩ := reach n (by omega)
      exact ⟨_, h, by simp [State.atCheck]⟩
  · rw [finishKdf_atCheck, lastRequest_off hen, BitVec.ofNat_toNat, BitVec.setWidth_eq, List.tail_nil, ← ht]

/-- The turns of `n + 1` rounds are those of the first and those of the others. -/
theorem roundTurns_succ (i n : Nat) : roundTurns i (n + 1) = roundTurns i 1 ++ roundTurns (i + 1) n := by
  simp [roundTurns]

/-- R165, R167, R169: one round whose host continues at the cadence, with an ok draw. -/
theorem run_round {s : State} {i : Nat} {ts : List Turn} {ds : List Bool} (hen : s.progressEn = true)
    (hf : s.faulted = none) (hi : i < (roundCount s).toNat) :
    Host.Core.run Sys2Proof.core (roundTurns i 1).length (s.atCheck i (roundTurns i 1 ++ ts) (true :: ds)) =
      .next (s.atCheck (i + 1) ts ds) := by
  by_cases hcad : i % 100000 = 0
  · have hturns : roundTurns i 1 = [.engine, .access (.write 32 0x008 0), .engine] := by
      simp [roundTurns, Config.progressInterval, hcad]
    rw [hturns]
    exact run_snoc (run_snoc (run_one (step_check_request rfl hi hen hcad)) (step_continue hf)) (step_round rfl)
  · have hturns : roundTurns i 1 = [.engine, .engine] := by
      simp [roundTurns, Config.progressInterval, hcad]
    rw [hturns]
    exact run_snoc (run_one (step_check_round rfl hi (.inr hcad))) (step_round rfl)

/-- R175, R177: `n` rounds whose host continues at every request. -/
theorem run_rounds {s : State} {i n : Nat} {ts : List Turn} {ds : List Bool} (hen : s.progressEn = true)
    (hf : s.faulted = none) (hn : i + n ≤ (roundCount s).toNat) :
    Host.Core.run Sys2Proof.core (roundTurns i n).length
        (s.atCheck i (roundTurns i n ++ ts) (List.replicate n true ++ ds)) =
      .next (s.atCheck (i + n) ts ds) := by
  induction n generalizing i with
  | zero => rfl
  | succ n ih =>
    rw [roundTurns_succ, List.length_append, List.append_assoc, List.replicate_succ, List.cons_append,
      run_add (run_round hen hf (by omega)), ih (by omega), Nat.add_right_comm, Nat.add_assoc]

/-- R163, R177: construction and `n` rounds whose host continues at every request. -/
theorem run_toCheck {s : State} {n : Nat} {ts : List Turn} {ds : List Bool} (hp : s.phase = .kdfInit)
    (hen : s.progressEn = true) (hf : s.faulted = none) (hn : n ≤ (roundCount s).toNat)
    (ht : s.turns = .engine :: (roundTurns 0 n ++ ts)) (hd : s.draws = List.replicate (n + 1) true ++ ds) :
    Host.Core.run Sys2Proof.core ((roundTurns 0 n).length + 1) s = .next (s.atCheck n ts ds) := by
  have hfirst := step_construct hp (by rw [ht]; rfl) (ds := List.replicate n true ++ ds) (by rw [hd]; rfl)
  rw [ht, List.tail_cons] at hfirst
  rw [Nat.add_comm, run_add (run_one hfirst), run_rounds hen hf (by omega), Nat.zero_add]

/-- Settles O47: `N` rounds, and the check that ends the operation. -/
theorem runAnsweringEveryRequest : Obligations.RunAnsweringEveryRequest := by
  intro s rest ds hp hen hf ht hd
  refine ⟨_, run_snoc (run_toCheck hp hen hf le_rfl ht hd) (step_lastCheck rfl), keyAfter_bytes s _, ?_⟩
  rw [finishKdf_atCheck, lastRequest_on hen, BitVec.ofNat_toNat, BitVec.setWidth_eq, List.tail_cons]

/-- Settles O48: `m` rounds, the check that raises the request for `m`, and the answer that stops the loop. -/
theorem stopLeavesTheKeyOfExactlyThoseRounds : Obligations.StopLeavesTheKeyOfExactlyThoseRounds := by
  intro s m v rest ds hp hen hf hv hcad hm ht hd
  refine ⟨_, run_snoc (run_snoc (run_toCheck hp hen hf hm.le ht hd) (step_check_request rfl hm hen hcad))
    (step_stop hf hv), keyAfter_bytes s m, ?_⟩
  rw [finishKdf_considered, lastRequest_request hen hcad]

end Sys2Proof.Machine

/-! Host accesses by register word (R201 to R204): the wrong direction, the BUSY window, and the accesses while IDLE. -/

namespace Sys2Proof.Machine

/-- R201 check 3: a read of a write-only register word, in every phase. -/
theorem admission_readWriteOnly (s : State) {slot : Slot} (h : slot.writeOnly = true) :
    admission (.read 32 (BitVec.ofNat 32 slot.offset)) s = .error .hf3 := by
  rw [admission_at s slot rfl rfl]
  simp [admissionOf, Access.isRead, h]

/-- R201 check 3: a write of a read-only register word, in every phase. -/
theorem admission_writeReadOnly (s : State) {slot : Slot} (v : Word) (h : slot.readOnly = true) :
    admission (.write 32 (BitVec.ofNat 32 slot.offset) v) s = .error .hf4 := by
  rw [admission_at s slot rfl rfl]
  simp [admissionOf, Access.isRead, h]

/-- R47, R54: the aligned offsets 0x100 to 0x13C are those of the words of OUT. -/
theorem exists_outWord {off : Word} (hlo : 0x100 ≤ off.toNat) (hhi : off.toNat < 0x140) (h4 : off.toNat % 4 = 0) :
    ∃ j, off = BitVec.ofNat 32 (Slot.buf .out j).offset := by
  have hj : (off.toNat - 0x100) / 4 < 16 := by omega
  have hoff : (Slot.buf .out ⟨_, hj⟩).offset = off.toNat := by
    simp only [Slot.offset, BufName.base]
    omega
  exact ⟨⟨_, hj⟩, by rw [hoff, BitVec.ofNat_toNat, BitVec.setWidth_eq]⟩

/-- Settles O10: check 3 of R201 comes before every check that reads the phase. -/
theorem wrongDirection : Obligations.WrongDirection := by
  intro s hf
  have read (slot : Slot) (h : slot.writeOnly = true) := hostTurn_error hf (admission_readWriteOnly s h)
  have write (slot : Slot) (v : Word) (h : slot.readOnly = true) := hostTurn_error hf (admission_writeReadOnly s v h)
  constructor
  · rintro off (rfl | rfl)
    · exact read .cmd rfl
    · exact read .progResp rfl
  · rintro off v (rfl | rfl | rfl | ⟨hlo, hhi, h4⟩)
    · exact write .status v rfl
    · exact write .progIndexLo v rfl
    · exact write .progIndexHi v rfl
    · obtain ⟨j, rfl⟩ := exists_outWord hlo hhi h4
      exact write (.buf .out j) v rfl

/-- R201 check 4: a read that is allowed while BUSY is admitted in every phase. -/
theorem admission_readAllowed (s : State) {slot : Slot} (h : Access.allowedWhileBusy true slot = true) :
    admission (.read 32 (BitVec.ofNat 32 slot.offset)) s = .ok slot := by
  rw [admission_at s slot rfl rfl]
  cases slot with
  | status | progIndexLo | progIndexHi =>
    simp [admissionOf, Access.isRead, Slot.writeOnly, Access.allowedWhileBusy, slotReadable, ctrlWriteLegal]
  | cmd | progResp | kdfCtrl | buf => cases h

/-- R202: what a read that is allowed while BUSY returns, in every phase. -/
theorem hostTurn_readAllowed {s : State} (slot : Slot) (hf : s.faulted = none)
    (h : Access.allowedWhileBusy true slot = true) :
    hostTurn (.read 32 (BitVec.ofNat 32 slot.offset)) s = .next { s with readData := slotValue s slot } :=
  hostTurn_ok hf (admission_readAllowed s h)

/-- R201 check 4: a read of a readable register word that is not allowed while BUSY. -/
theorem hostTurn_readBusy {s : State} (slot : Slot) (hf : s.faulted = none) (hb : s.phase ≠ .idle)
    (hdir : slot.writeOnly = false) (h : Access.allowedWhileBusy true slot = false) :
    hostTurn (.read 32 (BitVec.ofNat 32 slot.offset)) s = .next { s with faulted := some .hf5 } := by
  refine hostTurn_error hf ?_
  rw [admission_at s slot rfl rfl]
  simp [admissionOf, Access.isRead, hdir, Phase.busy, hb, h]

/-- R201 check 4: a write of a writable register word that is not allowed while BUSY. -/
theorem hostTurn_writeBusy {s : State} (slot : Slot) (v : Word) (hf : s.faulted = none) (hb : s.phase ≠ .idle)
    (hdir : slot.readOnly = false) (h : Access.allowedWhileBusy false slot = false) :
    hostTurn (.write 32 (BitVec.ofNat 32 slot.offset) v) s = .next { s with faulted := some .hf5 } := by
  refine hostTurn_error hf ?_
  rw [admission_at s slot rfl rfl]
  simp [admissionOf, Access.isRead, hdir, Phase.busy, hb, h]

/-- Settles O11: register word by register word, what check 4 of R201 lets through. -/
theorem busyWindow : Obligations.BusyWindow := fun _ hf hb =>
  ⟨hostTurn_readAllowed .status hf rfl, hostTurn_readAllowed .progIndexLo hf rfl,
    hostTurn_readAllowed .progIndexHi hf rfl, hostTurn_readBusy .kdfCtrl hf hb rfl rfl,
    fun v => hostTurn_writeBusy .cmd v hf hb rfl rfl, fun v => hostTurn_writeBusy .kdfCtrl v hf hb rfl rfl,
    fun b j => ⟨hostTurn_readBusy (.buf b j) hf hb rfl rfl, fun hne v =>
      hostTurn_writeBusy (.buf b j) v hf hb (by simp [Slot.readOnly, hne]) rfl⟩⟩

/-- R202, R205: the read of KDF_CTRL while IDLE returns PROGRESS_EN. -/
theorem hostTurn_readKdfCtrl {s : State} (hf : s.faulted = none) (hi : s.phase = .idle) :
    hostTurn (.read 32 0x00C) s = .next { s with readData := if s.progressEn then 1 else 0 } := by
  rw [hostTurn_ok hf (admission_readKdfCtrl hi), ← kdfCtrlWord_eq]
  rfl

/-- R37, R202: the read of a buffer word that has not been written. -/
theorem hostTurn_readBuf_unwritten {s : State} {b : BufName} {j : Fin b.words} (hf : s.faulted = none)
    (hi : s.phase = .idle) (hw : ¬(s.buf b).isWritten j = true) :
    hostTurn (.read 32 (BitVec.ofNat 32 (Slot.buf b j).offset)) s = .next { s with faulted := some .hf6 } :=
  hostTurn_error hf (by rw [admission_readBuf j hi, if_neg hw])

/-- Settles O12: the control words, and a buffer word by its `written` bit. -/
theorem readsReturnWords : Obligations.ReadsReturnWords := by
  intro s hf hi
  refine ⟨hostTurn_readAllowed .status hf rfl, hostTurn_readKdfCtrl hf hi, hostTurn_readAllowed .progIndexLo hf rfl,
    hostTurn_readAllowed .progIndexHi hf rfl, fun b j => ?_⟩
  split
  · next hw => exact hostTurn_readBuf hf hi hw
  · next hw => exact hostTurn_readBuf_unwritten hf hi hw

/-- R30: STATUS holds nothing of the buffers. -/
@[simp] theorem statusWord_setBuf (s : State) (b : BufName) (v : Buf b.words) :
    statusWord (s.setBuf b v) = statusWord s := by
  simp [statusWord]

/-- Settles O15: the new buffer is the old one with the word set. -/
theorem operandWrite : Obligations.OperandWrite := fun s b j v hf hi hb =>
  ⟨(s.buf b).setWord j v, hostTurn_writeBuf j v hf hi hb, Buf.word_setWord_same _ j v,
    Buf.isWritten_setWord_same _ j v,
    fun k hk => ⟨Buf.word_setWord_other _ j k v hk, Buf.isWritten_setWord_other _ j k v hk⟩,
    fun c hc => buf_setBuf_other s b c _ hc, statusWord_setBuf s b _⟩

/-- R204: a CMD write while IDLE issues its word. -/
theorem hostTurn_writeCmd {s : State} (v : Word) (hf : s.faulted = none) (hi : s.phase = .idle) :
    hostTurn (.write 32 0x000 v) s = issueCommand v s :=
  hostTurn_ok hf (admission_writeCmd v hi)

/-- R204: a legal command word written while IDLE is accepted if its operands are valid, and otherwise HF7. -/
theorem hostTurn_writeCmd_legal {s : State} {i : Instr} {first : Phase} {valid : Bool} (hf : s.faulted = none)
    (hi : s.phase = .idle) (hrun : first.running = some i) (hl : first.inLoop = false)
    (hv : operandsValid i s = true ↔ valid = true) :
    hostTurn (.write 32 0x000 (encode i)) s =
      .next (if valid then { s with result := .ok, cmdErr := false, phase := first }
        else { s with faulted := some .hf7 }) := by
  calc hostTurn (.write 32 0x000 (encode i)) s = issueCommand (encode i) s := hostTurn_writeCmd _ hf hi
    _ = exec i s := by rw [issueCommand, decode_encode]
    _ = .next (accept i first s) := exec_idle hi hrun hl
    _ = _ := by rw [accept, Bool.eq_iff_iff.2 hv, raise]

/-- R83, R234: an illegal command word written while IDLE sets CMD_ERR. -/
theorem hostTurn_writeCmd_illegal {s : State} {v : Word} (hf : s.faulted = none) (hi : s.phase = .idle)
    (hv : ∀ i, v ≠ encode i) : hostTurn (.write 32 0x000 v) s = .next { s with cmdErr := true } := by
  rw [hostTurn_writeCmd v hf hi, issueCommand]
  cases hd : decode v with
  | error e => rfl
  | ok i => exact absurd ((decode_eq_ok_iff v i).1 hd) (hv i)

/-- Settles O19: the words of the three commands, and every other word. -/
theorem commandIssue : Obligations.CommandIssue := by
  intro s v hf hi
  refine ⟨?_, ?_, ?_, fun h1 h2 h3 => hostTurn_writeCmd_illegal hf hi fun i => ?_⟩
  · rintro rfl
    exact hostTurn_writeCmd_legal (i := .salsa20Block) hf hi rfl rfl (by simp [operandsValid_salsa20, and_assoc])
  · rintro rfl
    exact hostTurn_writeCmd_legal (i := .chacha20Block) hf hi rfl rfl (by simp [operandsValid_chacha20, and_assoc])
  · rintro rfl
    exact hostTurn_writeCmd_legal (i := .aeskdfTransform) hf hi rfl rfl (by simp [operandsValid_aeskdf, and_assoc])
  · cases i
    · exact h1
    · exact h2
    · exact h3

/-- R200: where FAULTED is set a host access is not enabled. -/
theorem hostTurn_faulted {s : State} {code : HostFault} (a : Access) (h : s.faulted = some code) :
    hostTurn a s = .fault (.hostFault code) := by
  simp [hostTurn, h]

/-- Settles O22: the step is the access, made where FAULTED is still set. -/
theorem hostStepAfterFaultStops : Obligations.HostStepAfterFaultStops := fun s a _ _ hf ht =>
  (step_cons ht).trans (hostTurn_faulted (s := s.pastTurn) a hf)

/-- R273: an IDLE block with no turn left waits for a command. -/
theorem step_idle {s : State} (hp : s.phase = .idle) (ht : s.turns = []) : step s = .next s := by
  simp [step, nextStep, ht, unattended, hp]

/-- Settles O54: the line `halt` moves the host alone, so the block stays IDLE and unfaulted. -/
theorem haltEndsARun : Obligations.HaltEndsARun := by
  refine ⟨fun _ => step_idle, fun s rest hp hf hh ht hl => ?_⟩
  have hstep : step s = .next (s.pastTurn.withHost { s.host with halted := true }) := step_program ht hh hl
  have hrest : s.pastTurn = { s with turns := rest } := by rw [State.pastTurn, ht, List.tail_cons]
  exact ⟨_, hstep, ⟨rfl, hp, hf⟩, by rw [hrest, State.withHost]⟩

end Sys2Proof.Machine

/-! Host faults and engine errors (R236, R240): what an access that raises a fault leaves unchanged, and the entry into an
engine error. -/

namespace Sys2Proof.Machine

/-- R204: while IDLE every command's step is its issue, into some first phase. -/
theorem exec_idle_accept (i : Instr) {s : State} (hp : s.phase = .idle) :
    ∃ first, exec i s = .next (accept i first s) := by
  cases i with
  | salsa20Block => exact ⟨.salsaRun, exec_idle hp rfl rfl⟩
  | chacha20Block => exact ⟨.chachaRun, exec_idle hp rfl rfl⟩
  | aeskdfTransform => exact ⟨.kdfInit, exec_idle hp rfl rfl⟩

/-- R204, R236: the issue of a command raises HF7 and does nothing else, or raises no host fault. -/
theorem accept_raises_or_keeps (i : Instr) (first : Phase) (s : State) :
    (∃ code, accept i first s = raise code s) ∨ (accept i first s).faulted = s.faulted := by
  rcases accept_cases i first s with ⟨-, h⟩ | ⟨-, h⟩
  · exact .inl ⟨.hf7, h⟩
  · exact .inr (by rw [h])

/-- R236: a host access raises a host fault and does nothing else, or leaves FAULTED alone. -/
theorem hostAccess_raises_or_keeps {a : Access} {s t : State} (h : hostAccess a s = .next t) :
    (∃ code, t = raise code s) ∨ t.faulted = s.faulted := by
  rcases hostAccess_cases h with ⟨code, -, rfl⟩ | ⟨_, -, -, rfl⟩ | ⟨_, _, _, _, -, -, -, -, rfl⟩ |
    ⟨_, _, _, i, -, -, hp, -, hx⟩ | ⟨_, _, v, -, -, -, ht⟩ | ⟨_, _, _, -, -, -, -, rfl⟩ |
    ⟨_, _, _, b, j, -, -, -, -, rfl⟩
  · exact .inl ⟨code, rfl⟩
  · exact .inr rfl
  · exact .inr rfl
  · obtain ⟨first, hi⟩ := exec_idle_accept i hp
    obtain rfl : accept i first s = t := by simpa [hi] using hx
    exact accept_raises_or_keeps i first s
  · exact .inr (congrArg State.faulted (answerRequest_frame ht) :)
  · exact .inr rfl
  · exact .inr (setBuf_faulted b _ s)

/-- Settles O20: with FAULTED clear before, the access is one that raised the fault, and R209 asks FAULTED clear. -/
theorem hostFaultChangesNothingElse : Obligations.HostFaultChangesNothingElse := by
  intro s t a code hf h ht
  obtain ⟨raised, rfl⟩ := (hostAccess_raises_or_keeps (hostTurn_next h).2).resolve_right (by simp [ht, hf])
  obtain rfl : raised = code := by simpa using ht
  exact ⟨rfl, fun ⟨_, _, hclear⟩ => by simp at hclear⟩

/-- R163, R240: a draw that fails in KDF_INIT is the engine error of the construction. -/
theorem kdfStep_initFails (enc : WordBytes 8 → WordBytes 4 → WordBytes 4) {s : State} {ds : List Bool}
    (hp : s.phase = .kdfInit) (hd : s.draws = false :: ds) :
    kdfStep enc true s = engineError .engineInitFailed { s with draws := ds } := by
  have fails : ¬drawAnswer true s = true := by simp [drawAnswer_fail true s ds hd]
  calc kdfStep enc true s = kdfConstruct true s := by rw [kdfStep, hp]
    _ = engineError .engineInitFailed (drawTaken s) := if_neg fails
    _ = _ := by rw [drawTaken_cons s false ds hd]

/-- R169, R240: a draw that fails in KDF_ROUND is the engine error of the round. -/
theorem kdfStep_roundFails (enc : WordBytes 8 → WordBytes 4 → WordBytes 4) {s : State} {ds : List Bool}
    (hp : s.phase = .kdfRound) (hd : s.draws = false :: ds) :
    kdfStep enc true s = engineError .engineStepFailed { s with draws := ds } := by
  have fails : ¬drawAnswer true s = true := by simp [drawAnswer_fail true s ds hd]
  calc kdfStep enc true s = kdfApply enc true s := by rw [kdfStep, hp]
    _ = engineError .engineStepFailed (drawTaken s) := if_neg fails
    _ = _ := by rw [drawTaken_cons s false ds hd]

/-- R30, R231: STATUS after an engine error is the result code at its place, and nothing else. -/
theorem statusWord_engineError (r : Result) {s : State} (he : s.cmdErr = false) :
    statusWord (engineError r s) = r.code.setWidth 32 <<< 2 := by
  rw [statusWord, engineError_cmdErr, engineError_result, engineError_phase, he]
  cases r <;> rfl

/-- R37, R171: after an engine error a read of any word of KDF_KEY raises HF6. -/
theorem hostTurn_readKdfKey_engineError (r : Result) {s : State} (hf : s.faulted = none) (j : Fin 8) :
    hostTurn (.read 32 (BitVec.ofNat 32 (0x060 + 4 * j.val))) (engineError r s) =
      .next { engineError r s with faulted := some .hf6 } :=
  have unwritten : (engineError r s).kdfKey.isWritten j = false := (engineError_frame r s).1 j
  hostTurn_readBuf_unwritten (b := .kdfKey) hf rfl (Bool.eq_false_iff.1 unwritten)

/-- Settles O44: either failing draw is an engine error after the draw is taken; the two differ in the code alone. -/
theorem engineErrorEntry : Obligations.EngineErrorEntry := by
  intro enc s ds hphase hd hf he
  obtain ⟨r, hstep, hcode⟩ : ∃ r, kdfStep enc true s = engineError r { s with draws := ds } ∧
      r.code.setWidth 32 <<< 2 = if s.phase = .kdfInit then (0x00000004 : Word) else 0x00000008 := by
    rcases hphase with hp | hp
    · exact ⟨_, kdfStep_initFails enc hp hd, by rw [hp]; rfl⟩
    · exact ⟨_, kdfStep_roundFails enc hp hd, by rw [hp]; rfl⟩
  exact ⟨_, hstep, (statusWord_engineError r he).trans hcode, (engineError_frame r { s with draws := ds }).2,
    hostTurn_readKdfKey_engineError r hf⟩

end Sys2Proof.Machine

/-! The reset state and the reset event (R270 to R272): every buffer is unwritten, and the turn that resets the block. -/

namespace Sys2Proof.Machine

/-- R37, R271: reset clears the `written` bits of every buffer register. -/
@[simp] theorem reset_buf (b : BufName) : State.reset.buf b = Buf.unwritten b.words := by
  cases b <;> rfl

/-- R270: the reset event leaves the buffer registers as they are in the reset state. -/
@[simp] theorem resetEvent_buf (s : State) (b : BufName) : (resetEvent s).buf b = State.reset.buf b := by
  cases b <;> rfl

/-- R270: a step whose turn is the reset event is that event, from any phase. -/
theorem step_reset {s : State} {rest : List Turn} (h : s.turns = .reset :: rest) :
    step s = .next (resetEvent s.pastTurn) :=
  step_cons h

/-- Settles O5: the reset state is idle and not faulted, so the read of an unwritten word reaches the check that
raises HF6. -/
theorem resetLeavesTheGivenValues : Obligations.ResetLeavesTheGivenValues := by
  refine ⟨rfl, statusWord_idleOk rfl rfl rfl, rfl, rfl, rfl, rfl, fun b j => ?_⟩
  have unwritten : (State.reset.buf b).isWritten j = false := by rw [reset_buf, Buf.isWritten_unwritten]
  exact ⟨unwritten, hostTurn_readBuf_unwritten rfl rfl (Bool.eq_false_iff.1 unwritten)⟩

/-- Settles O6: the step is the reset event after the turn is past, whatever the phase was. -/
theorem resetEventInAnyPhase : Obligations.ResetEventInAnyPhase := by
  intro s rest ht
  have unwritten (b : BufName) (j : Fin b.words) : ((resetEvent s.pastTurn).buf b).isWritten j = false := by
    rw [resetEvent_buf, reset_buf, Buf.isWritten_unwritten]
  have turnsLeft : (resetEvent s.pastTurn).turns = rest := by
    rw [resetEvent_turns, pastTurn_turns, ht, List.tail_cons]
  exact ⟨resetEvent s.pastTurn, step_reset ht, rfl, statusWord_idleOk rfl rfl rfl, rfl, rfl, rfl, unwritten, rfl, rfl,
    turnsLeft⟩

end Sys2Proof.Machine
